-- ==== Sys2Proof/Word.lean ====
section
/-! DEFINITION. The word types of the core (00_scope.md R10, R13, R14). -/

namespace Sys2Proof

/-- A memory cell, a V register, a timer, an nn immediate: 8 bits (R10). -/
abbrev Byte := BitVec 8

/-- An instruction word, PC, I, a call-stack entry: 16 bits (R10). -/
abbrev Word := BitVec 16

/-- An nnn immediate: 12 bits (30_encoding.md R72). -/
abbrev Addr := BitVec 12

/-- A 4-bit field of the instruction word: the class nibble or n (30_encoding.md R72). -/
abbrev Nibble := BitVec 4

/-- The number of a general register V0..VF (10_state.md R21). -/
abbrev Reg := Fin 16

/-- The number of a key 0x0..0xF (10_state.md R38). -/
abbrev Key := Fin 16

/-- VF, the flag register, is V[15] (10_state.md R22). -/
abbrev vf : Reg := 15

end Sys2Proof
end

