-- ==== Sys2Proof/Syntax.lean ====
section
/-! DEFINITION. The instructions: one constructor per row of spec/opcode_table.json, in its order, with every
field the row's encoding has (30_encoding.md R72, R83). -/

namespace Sys2Proof

/-- An instruction word, decoded: the row it matches and the row's fields (30_encoding.md R83). -/
inductive Instr where
  /-- 00E0 CLS: clear-screen (R100). -/
  | cls
  /-- 00EE RET: return (R101). -/
  | ret
  /-- 1nnn JP nnn: jump (R103). -/
  | jp (nnn : Addr)
  /-- 2nnn CALL nnn: call (R105). -/
  | call (nnn : Addr)
  /-- 3xnn SE Vx, nn: skip if equal immediate (R107). -/
  | seImm (x : Reg) (nn : Byte)
  /-- 4xnn SNE Vx, nn: skip if not equal immediate (R108). -/
  | sneImm (x : Reg) (nn : Byte)
  /-- 5xyN SE Vx, Vy: skip if registers equal; n is not examined (R109, R81). -/
  | seReg (x : Reg) (y : Reg) (n : Nibble)
  /-- 6xnn LD Vx, nn: load immediate (R120). -/
  | ldImm (x : Reg) (nn : Byte)
  /-- 7xnn ADD Vx, nn: add immediate, no flag (R122). -/
  | addImm (x : Reg) (nn : Byte)
  /-- 8xy0 LD Vx, Vy: load register (R121). -/
  | ldReg (x : Reg) (y : Reg)
  /-- 8xy1 OR Vx, Vy (R124). -/
  | orReg (x : Reg) (y : Reg)
  /-- 8xy2 AND Vx, Vy (R125). -/
  | andReg (x : Reg) (y : Reg)
  /-- 8xy3 XOR Vx, Vy (R126). -/
  | xorReg (x : Reg) (y : Reg)
  /-- 8xy4 ADD Vx, Vy: add with flag (R123). -/
  | addReg (x : Reg) (y : Reg)
  /-- 8xy5 SUB Vx, Vy: Vx − Vy (R127). -/
  | sub (x : Reg) (y : Reg)
  /-- 8xy6 SHR Vx: shift right; y is not read (R129, R82). -/
  | shr (x : Reg) (y : Reg)
  /-- 8xy7 SUBN Vx, Vy: Vy − Vx (R128). -/
  | subn (x : Reg) (y : Reg)
  /-- 8xyE SHL Vx: shift left; y is not read (R130, R82). -/
  | shl (x : Reg) (y : Reg)
  /-- 9xyN SNE Vx, Vy: skip if registers differ; n is not examined (R110, R81). -/
  | sneReg (x : Reg) (y : Reg) (n : Nibble)
  /-- Annn LD I, nnn: load index (R140). -/
  | ldI (nnn : Addr)
  /-- Bnnn JP V0, nnn: jump with offset (R104). -/
  | jpV0 (nnn : Addr)
  /-- Cxnn RND Vx, nn: random (R142). -/
  | rnd (x : Reg) (nn : Byte)
  /-- Dxyn DRW Vx, Vy, n: draw (R150). -/
  | drw (x : Reg) (y : Reg) (n : Nibble)
  /-- Fx0A LD Vx, K: wait for key (R162). -/
  | ldKey (x : Reg)
  /-- Fx15 LD DT, Vx: set delay timer (R160). -/
  | ldDt (x : Reg)
  /-- Fx18 LD ST, Vx: set sound timer (R161). -/
  | ldSt (x : Reg)
  /-- Fx1E ADD I, Vx: add to index (R141). -/
  | addI (x : Reg)
  /-- Fx33 LD B, Vx: store BCD (R163). -/
  | ldBcd (x : Reg)
  /-- Ex9E SKP Vx, undescribed: skip if key pressed (R173). -/
  | skp (x : Reg)
  /-- ExA1 SKNP Vx, undescribed: skip if key not pressed (R174). -/
  | sknp (x : Reg)
  /-- Fx07 LD Vx, DT, undescribed: read delay timer (R175). -/
  | ldFromDt (x : Reg)
  /-- Fx29 LD F, Vx, undescribed: point I at a standard glyph (R176). -/
  | ldFont (x : Reg)
  /-- Fx30 LD HF, Vx, undescribed: point I at an extended glyph (R177). -/
  | ldHiFont (x : Reg)
  /-- Fx55 LD [I], Vx, undescribed: store V0..Vx (R178). -/
  | storeRegs (x : Reg)
  /-- Fx65 LD Vx, [I], undescribed: load V0..Vx (R179). -/
  | loadRegs (x : Reg)
  /-- 00Cn SCD n, SCHIP-only (R180). -/
  | scd (n : Nibble)
  /-- 00FB SCR, SCHIP-only (R180). -/
  | scr
  /-- 00FC SCL, SCHIP-only (R180). -/
  | scl
  /-- 00FD EXIT, SCHIP-only (R180). -/
  | exit
  /-- 00FE LOW, SCHIP-only (R180). -/
  | low
  /-- 00FF HIGH, SCHIP-only (R180). -/
  | high
  /-- Fx75 LD R, Vx, SCHIP-only (R180). -/
  | saveFlags (x : Reg)
  /-- Fx85 LD Vx, R, SCHIP-only (R180). -/
  | restoreFlags (x : Reg)
  /-- 8xy8, unmapped (R185). -/
  | unmapped8xy8 (x : Reg) (y : Reg)
  /-- 8xy9, unmapped (R185). -/
  | unmapped8xy9 (x : Reg) (y : Reg)
  /-- 8xyA, unmapped (R185). -/
  | unmapped8xyA (x : Reg) (y : Reg)
  /-- 8xyB, unmapped (R185). -/
  | unmapped8xyB (x : Reg) (y : Reg)
  /-- 8xyC, unmapped (R185). -/
  | unmapped8xyC (x : Reg) (y : Reg)
  /-- 8xyD, unmapped (R185). -/
  | unmapped8xyD (x : Reg) (y : Reg)
  /-- 8xyF, unmapped (R185). -/
  | unmapped8xyF (x : Reg) (y : Reg)
  /-- 0nnn that no other row of class 0x0 matches, unmapped (R185, R186). -/
  | unmapped0nnn (nnn : Addr)
  /-- Exnn that no other row of class 0xE matches, unmapped (R185, R186). -/
  | unmappedExnn (x : Reg) (nn : Byte)
  /-- Fxnn that no other row of class 0xF matches, unmapped (R185, R186). -/
  | unmappedFxnn (x : Reg) (nn : Byte)
  deriving DecidableEq, Repr

/-- The classes of 30_encoding.md R75; `schip` are the undescribed forms of
45_undescribed_and_unmapped.md R180. -/
inductive InstrClass where
  | described
  | undescribed
  | schip
  | unmapped
  deriving DecidableEq, Repr

end Sys2Proof
end

