-- ==== Sys2Proof/Decode.lean ====
section
/-! DEFINITION. The decoder, total on any bytes, and the encoder (30_encoding.md R70 to R84). -/

namespace Sys2Proof

/-! ## The fields of a word (R72) -/

/-- The class nibble, word[15:12] (R72). -/
def fieldClass (w : Word) : Nibble := w.extractLsb' 12 4

/-- registerX, word[11:8] (R72). -/
def fieldX (w : Word) : Reg := ⟨(w.extractLsb' 8 4).toNat, BitVec.isLt _⟩

/-- registerY, word[7:4] (R72). -/
def fieldY (w : Word) : Reg := ⟨(w.extractLsb' 4 4).toNat, BitVec.isLt _⟩

/-- n, word[3:0] (R72). -/
def fieldN (w : Word) : Nibble := w.extractLsb' 0 4

/-- nn, word[7:0] (R72). -/
def fieldNn (w : Word) : Byte := w.extractLsb' 0 8

/-- nnn, word[11:0] (R72). -/
def fieldNnn (w : Word) : Addr := w.extractLsb' 0 12

/-! ## Dispatch (R76 to R79, R84) -/

/-- Class 0x0 dispatches on nnn (R77). -/
def decodeClass0 (w : Word) : Instr :=
  if fieldNnn w = 0x0E0 then .cls
  else if fieldNnn w = 0x0EE then .ret
  else if 0x0C0 ≤ (fieldNnn w).toNat ∧ (fieldNnn w).toNat ≤ 0x0CF then .scd (fieldN w)
  else if fieldNnn w = 0x0FB then .scr
  else if fieldNnn w = 0x0FC then .scl
  else if fieldNnn w = 0x0FD then .exit
  else if fieldNnn w = 0x0FE then .low
  else if fieldNnn w = 0x0FF then .high
  else .unmapped0nnn (fieldNnn w)

/-- Class 0x8 dispatches on n (R78). -/
def decodeClass8 (w : Word) : Instr :=
  match (fieldN w).toNat with
  | 0x0 => .ldReg (fieldX w) (fieldY w)
  | 0x1 => .orReg (fieldX w) (fieldY w)
  | 0x2 => .andReg (fieldX w) (fieldY w)
  | 0x3 => .xorReg (fieldX w) (fieldY w)
  | 0x4 => .addReg (fieldX w) (fieldY w)
  | 0x5 => .sub (fieldX w) (fieldY w)
  | 0x6 => .shr (fieldX w) (fieldY w)
  | 0x7 => .subn (fieldX w) (fieldY w)
  | 0x8 => .unmapped8xy8 (fieldX w) (fieldY w)
  | 0x9 => .unmapped8xy9 (fieldX w) (fieldY w)
  | 0xA => .unmapped8xyA (fieldX w) (fieldY w)
  | 0xB => .unmapped8xyB (fieldX w) (fieldY w)
  | 0xC => .unmapped8xyC (fieldX w) (fieldY w)
  | 0xD => .unmapped8xyD (fieldX w) (fieldY w)
  | 0xE => .shl (fieldX w) (fieldY w)
  | _ => .unmapped8xyF (fieldX w) (fieldY w)

/-- Class 0xE dispatches on nn (R79). -/
def decodeClassE (w : Word) : Instr :=
  match (fieldNn w).toNat with
  | 0x9E => .skp (fieldX w)
  | 0xA1 => .sknp (fieldX w)
  | _ => .unmappedExnn (fieldX w) (fieldNn w)

/-- Class 0xF dispatches on nn (R79). -/
def decodeClassF (w : Word) : Instr :=
  match (fieldNn w).toNat with
  | 0x07 => .ldFromDt (fieldX w)
  | 0x0A => .ldKey (fieldX w)
  | 0x15 => .ldDt (fieldX w)
  | 0x18 => .ldSt (fieldX w)
  | 0x1E => .addI (fieldX w)
  | 0x29 => .ldFont (fieldX w)
  | 0x30 => .ldHiFont (fieldX w)
  | 0x33 => .ldBcd (fieldX w)
  | 0x55 => .storeRegs (fieldX w)
  | 0x65 => .loadRegs (fieldX w)
  | 0x75 => .saveFlags (fieldX w)
  | 0x85 => .restoreFlags (fieldX w)
  | _ => .unmappedFxnn (fieldX w) (fieldNn w)

/-- The decoder of one word: primary dispatch on the class nibble (R76); every word has one reading (R75). -/
def decodeWord (w : Word) : Instr :=
  match (fieldClass w).toNat with
  | 0x0 => decodeClass0 w
  | 0x1 => .jp (fieldNnn w)
  | 0x2 => .call (fieldNnn w)
  | 0x3 => .seImm (fieldX w) (fieldNn w)
  | 0x4 => .sneImm (fieldX w) (fieldNn w)
  | 0x5 => .seReg (fieldX w) (fieldY w) (fieldN w)
  | 0x6 => .ldImm (fieldX w) (fieldNn w)
  | 0x7 => .addImm (fieldX w) (fieldNn w)
  | 0x8 => decodeClass8 w
  | 0x9 => .sneReg (fieldX w) (fieldY w) (fieldN w)
  | 0xA => .ldI (fieldNnn w)
  | 0xB => .jpV0 (fieldNnn w)
  | 0xC => .rnd (fieldX w) (fieldNn w)
  | 0xD => .drw (fieldX w) (fieldY w) (fieldN w)
  | 0xE => decodeClassE w
  | _ => decodeClassF w

/-! ## Bytes and words (R70, R71) -/

/-- The word of two bytes: the byte at the lower address is the high byte (R71, 20_memory.md R52). -/
def wordOfBytes (hi lo : Byte) : Word := hi ++ lo

/-- The high byte of a word, the one at the lower address (R71). -/
def highByte (w : Word) : Byte := w.extractLsb' 8 8

/-- The low byte of a word (R71). -/
def lowByte (w : Word) : Byte := w.extractLsb' 0 8

/-- Why a list of bytes is no instruction: every word is one (R75), so only too few bytes are none. -/
inductive DecodeError where
  /-- Fewer than the two bytes every instruction has (R70). -/
  | tooShort (bytes : Nat)
  deriving DecidableEq, Repr

/-- The decoder of bytes: the instruction of the first two and the bytes after it (R70, R71). -/
def decode (bytes : List Byte) : Except DecodeError (Instr × List Byte) :=
  match bytes with
  | [] => .error (.tooShort 0)
  | [_] => .error (.tooShort 1)
  | hi :: lo :: rest => .ok (decodeWord (wordOfBytes hi lo), rest)

/-- The instruction word whose bits are `w`, numbered as spec/opcode_table.json numbers them, with only the
low `nbits` taken and the bits above them 0. -/
def tableWord (nbits w : Nat) : Word := BitVec.ofNat 16 (w % 2 ^ nbits)

/-- The instruction the decoder reads from a table word laid out as the core stores it, high byte first;
none for more bits than the one format has (R70). -/
def decodeTableWord (nbits w : Nat) : Option Instr :=
  if nbits ≤ 16 then
    match decode [highByte (tableWord nbits w), lowByte (tableWord nbits w)] with
    | .ok (i, _) => some i
    | .error _ => none
  else none

/-! ## The encoder (R83) -/

/-- A word of class, x, y and n. -/
def wordXyn (c : Nibble) (x y : Reg) (n : Nibble) : Word :=
  c ++ BitVec.ofNat 4 x.val ++ BitVec.ofNat 4 y.val ++ n

/-- A word of class, x and nn. -/
def wordXnn (c : Nibble) (x : Reg) (nn : Byte) : Word := c ++ BitVec.ofNat 4 x.val ++ nn

/-- A word of class and nnn. -/
def wordNnn (c : Nibble) (nnn : Addr) : Word := c ++ nnn

/-- The word of an instruction (R83). -/
def encode (i : Instr) : Word :=
  match i with
  | .cls => 0x00E0
  | .ret => 0x00EE
  | .jp nnn => wordNnn 0x1 nnn
  | .call nnn => wordNnn 0x2 nnn
  | .seImm x nn => wordXnn 0x3 x nn
  | .sneImm x nn => wordXnn 0x4 x nn
  | .seReg x y n => wordXyn 0x5 x y n
  | .ldImm x nn => wordXnn 0x6 x nn
  | .addImm x nn => wordXnn 0x7 x nn
  | .ldReg x y => wordXyn 0x8 x y 0x0
  | .orReg x y => wordXyn 0x8 x y 0x1
  | .andReg x y => wordXyn 0x8 x y 0x2
  | .xorReg x y => wordXyn 0x8 x y 0x3
  | .addReg x y => wordXyn 0x8 x y 0x4
  | .sub x y => wordXyn 0x8 x y 0x5
  | .shr x y => wordXyn 0x8 x y 0x6
  | .subn x y => wordXyn 0x8 x y 0x7
  | .shl x y => wordXyn 0x8 x y 0xE
  | .sneReg x y n => wordXyn 0x9 x y n
  | .ldI nnn => wordNnn 0xA nnn
  | .jpV0 nnn => wordNnn 0xB nnn
  | .rnd x nn => wordXnn 0xC x nn
  | .drw x y n => wordXyn 0xD x y n
  | .ldKey x => wordXnn 0xF x 0x0A
  | .ldDt x => wordXnn 0xF x 0x15
  | .ldSt x => wordXnn 0xF x 0x18
  | .addI x => wordXnn 0xF x 0x1E
  | .ldBcd x => wordXnn 0xF x 0x33
  | .skp x => wordXnn 0xE x 0x9E
  | .sknp x => wordXnn 0xE x 0xA1
  | .ldFromDt x => wordXnn 0xF x 0x07
  | .ldFont x => wordXnn 0xF x 0x29
  | .ldHiFont x => wordXnn 0xF x 0x30
  | .storeRegs x => wordXnn 0xF x 0x55
  | .loadRegs x => wordXnn 0xF x 0x65
  | .scd n => wordXyn 0x0 0 0xC n
  | .scr => 0x00FB
  | .scl => 0x00FC
  | .exit => 0x00FD
  | .low => 0x00FE
  | .high => 0x00FF
  | .saveFlags x => wordXnn 0xF x 0x75
  | .restoreFlags x => wordXnn 0xF x 0x85
  | .unmapped8xy8 x y => wordXyn 0x8 x y 0x8
  | .unmapped8xy9 x y => wordXyn 0x8 x y 0x9
  | .unmapped8xyA x y => wordXyn 0x8 x y 0xA
  | .unmapped8xyB x y => wordXyn 0x8 x y 0xB
  | .unmapped8xyC x y => wordXyn 0x8 x y 0xC
  | .unmapped8xyD x y => wordXyn 0x8 x y 0xD
  | .unmapped8xyF x y => wordXyn 0x8 x y 0xF
  | .unmapped0nnn nnn => wordNnn 0x0 nnn
  | .unmappedExnn x nn => wordXnn 0xE x nn
  | .unmappedFxnn x nn => wordXnn 0xF x nn

/-- The two bytes of an instruction as they lie in memory (R71). -/
def encodeBytes (i : Instr) : List Byte := [highByte (encode i), lowByte (encode i)]

end Sys2Proof
end

