-- ==== Sys2Proof/Config.lean ====
section
/-! DEFINITION. What is fixed for this hardware, and the values the spec leaves open
(00_scope.md R10, R11). A free value is an opaque constant: no proof can see it. -/

namespace Sys2Proof

/-- Cells of memory, addresses 0..4095 (00_scope.md R10, 20_memory.md R51). -/
abbrev Config.memSize : Nat := 4096

/-- STACK_DEPTH for this hardware (00_scope.md R11, 10_state.md R31). -/
abbrev Config.stackDepth : Nat := 16

/-- Rows of the framebuffer (10_state.md R36). -/
abbrev Config.fbRows : Nat := 32

/-- Columns of the framebuffer (10_state.md R36). -/
abbrev Config.fbCols : Nat := 64

/-- First byte of the standard font (10_state.md R33). -/
abbrev Config.stdFontBase : Nat := 0x050

/-- Bytes of a standard glyph (10_state.md R33). -/
abbrev Config.stdGlyphBytes : Nat := 5

/-- First byte of the extended font, and the end of the standard font (10_state.md R33). -/
abbrev Config.extFontBase : Nat := 0x0A0

/-- Bytes of an extended glyph (10_state.md R33). -/
abbrev Config.extGlyphBytes : Nat := 10

/-- The first address after the extended font (10_state.md R33). -/
abbrev Config.extFontEnd : Nat := 0x140

/-- First byte of program space and the reset PC (20_memory.md R62, 70_reset_and_hazards.md R221). -/
abbrev Config.programBase : Nat := 0x200

/-- The longest ROM, 4096 − 0x200 bytes (70_reset_and_hazards.md R222). -/
abbrev Config.maxRom : Nat := Config.memSize - Config.programBase

/-- One row of 10_state.md R34: the five bytes of glyph `k` of the conventional standard font.
PRESUMED: the spec gives them from general knowledge and leaves STD_FONT open (log entry 7). Unsafe. -/
def Config.stdGlyph (k : Nat) : List Byte :=
  match k with
  | 0 => [0xF0, 0x90, 0x90, 0x90, 0xF0]
  | 1 => [0x20, 0x60, 0x20, 0x20, 0x70]
  | 2 => [0xF0, 0x10, 0xF0, 0x80, 0xF0]
  | 3 => [0xF0, 0x10, 0xF0, 0x10, 0xF0]
  | 4 => [0x90, 0x90, 0xF0, 0x10, 0x10]
  | 5 => [0xF0, 0x80, 0xF0, 0x10, 0xF0]
  | 6 => [0xF0, 0x80, 0xF0, 0x90, 0xF0]
  | 7 => [0xF0, 0x10, 0x20, 0x40, 0x40]
  | 8 => [0xF0, 0x90, 0xF0, 0x90, 0xF0]
  | 9 => [0xF0, 0x90, 0xF0, 0x10, 0xF0]
  | 10 => [0xF0, 0x90, 0xF0, 0x90, 0x90]
  | 11 => [0xE0, 0x90, 0xE0, 0x90, 0xE0]
  | 12 => [0xF0, 0x80, 0x80, 0x80, 0xF0]
  | 13 => [0xE0, 0x90, 0x90, 0x90, 0xE0]
  | 14 => [0xF0, 0x80, 0xF0, 0x80, 0xF0]
  | 15 => [0xF0, 0x80, 0xF0, 0x80, 0x80]
  | _ => []

/-- STD_FONT[j], 0 ≤ j < 80 (10_state.md R33, R34). PRESUMED (log entry 7), unsafe. -/
def Config.stdFont (j : Nat) : Byte :=
  (Config.stdGlyph (j / Config.stdGlyphBytes)).getD (j % Config.stdGlyphBytes) 0

/-- EXT_FONT[j], 0 ≤ j < 160: no source gives the bytes (10_state.md R33, R34; D21).
DESIGN CHOICE: a free value (log entry 8), safe. -/
opaque Config.extFont : Nat → Byte

/-- RAND of the k-th draw the host does not inject: any byte (42_index_and_random.md R142; D16).
DESIGN CHOICE: a free value (log entry 5), safe. -/
opaque Config.randByte : Nat → Byte

/-- KEY_SELECT, as a position in the list of pressed keys: a function of the pressed set
(00_scope.md R11, 44_timers_keys_bcd.md R162; D15). The machine reduces it to a position of the
list, so a pressed key results whatever it is. DESIGN CHOICE: a free value (log entry 6), safe. -/
opaque Config.keySelect : Vector Bool 16 → Nat

end Sys2Proof
end

