-- ==== Sys2Proof/Machine/State.lean ====
section
/-! DEFINITION. The state of the core (10_state.md R20), as plain data, and the state after reset (R45). -/

namespace Sys2Proof.Machine

/-- The causes of a fault, each with the information its record keeps (60_exceptions.md R202; C10).
A meaning raises one; the core then latches it in FAULT and the Step ends in a NEXT state (R201, log entry 3),
so `step` never answers the outcome `fault`. Each errs toward unprovable by the spec's own account (92 D3, D5, D29);
a claim about a next state must look at FAULT. -/
inductive Fault where
  /-- Raised by the fetch, Dxyn, Fx33, and under standard Fx55 and Fx65: the first address whose access fails. Safe. -/
  | memoryOutOfRange (addr : Nat)
  /-- Raised by 2nnn with a full call stack: the depth. Safe. -/
  | stackOverflow (depth : Nat)
  /-- Raised by 00EE with an empty call stack. Safe. -/
  | stackUnderflow
  /-- Raised under standard by Ex9E and ExA1 with V[x] > 15: V[x]. Safe. -/
  | keyIndexOutOfRange (key : Nat)
  deriving DecidableEq, Repr

/-- Why the model does not speak for an instruction (60_exceptions.md R203). -/
inductive Refusal where
  /-- Raised by exec's arm of an instruction that has no meaning yet; no arm does. Safe. -/
  | notModelled (mnemonic : String)
  /-- The reason Undescribed of R203: recorded in REFUSED by an undescribed form under UNDESCRIBED_OPS = refuse and by a
  SCHIP-only form under refuse and standard (45_undescribed_and_unmapped.md R171, R180). The Step ends in a NEXT state with
  the mark set (log entry 4). Safe for a claim that looks at REFUSED, unsafe for one that does not. -/
  | undescribed
  deriving DecidableEq, Repr

/-- The record FAULT holds: {cause, pc_inst, word, info}, info being the cause's argument (10_state.md R41, C10). -/
structure FaultRecord where
  cause : Fault
  pcInst : Word
  /-- none if the fetch faulted (60_exceptions.md R201). -/
  word : Option Word
  deriving DecidableEq, Repr

/-- The record REFUSED holds: {reason, pc_inst, word} (10_state.md R42). -/
structure RefusedRecord where
  reason : Refusal
  pcInst : Word
  word : Word
  deriving DecidableEq, Repr

/-- The parameter UNDESCRIBED_OPS (45_undescribed_and_unmapped.md R170). -/
inductive UndescribedOps where
  | refuse
  | noop
  | standard
  deriving DecidableEq, Repr

/-- What the host can do between Steps, and the Step itself (10_state.md R46, 70_reset_and_hazards.md R229).
The reading ports (FB_GET, SOUND_ACTIVE, FAULT, UNMAPPED, OBSERVE) are functions of the state and need no move. -/
inductive HostMove where
  /-- STEP: one Step (30_encoding.md R80). -/
  | step
  /-- RESET (70_reset_and_hazards.md R220). -/
  | reset
  /-- LOAD_ROM(bytes) (70_reset_and_hazards.md R222). -/
  | loadRom (bytes : List Byte)
  /-- TIMER_TICK (60_exceptions.md R210). -/
  | timerTick
  /-- KEY_WRITE(k, b) (10_state.md R38, R46). -/
  | keyWrite (k : Key) (pressed : Bool)
  /-- FB_SET(row, col, v) (10_state.md R37, R46). -/
  | fbSet (row : Fin 32) (col : Fin 64) (v : Bool)
  /-- RAND: the byte the next draw takes (10_state.md R44, R46). -/
  | randPort (b : Byte)
  deriving DecidableEq, Repr

/-- The framebuffer: 32 rows of 64 pixels, `FB[row][col]` (10_state.md R36). -/
abbrev Framebuffer := Vector (Vector Bool 64) 32

/-- The state of the core (10_state.md R20), and after it the model's own fields. -/
structure State where
  /-- V0..VF (R21). -/
  v : Vector Byte 16
  /-- PC (R24). -/
  pc : Word
  /-- I (R28). -/
  index : Word
  /-- DT, the Delay Timer (R29). -/
  dt : Byte
  /-- ST, the Sound Timer (R30). -/
  st : Byte
  /-- STACK[0..15] (R31). -/
  stack : Vector Word 16
  /-- SP, the stack depth, 0..16 (R32). -/
  sp : Fin 17
  /-- M (R33): the cells that differ from the reset contents, addresses strictly rising. -/
  mem : List Host.Cell
  /-- FB (R36). -/
  fb : Framebuffer
  /-- KEY (R38): true is pressed. -/
  keys : Vector Bool 16
  /-- FAULT (R41). -/
  fault : Option FaultRecord
  /-- REFUSED (R42). -/
  refused : Option RefusedRecord
  /-- UNDESCRIBED_OPS, fixed for the run (70_reset_and_hazards.md R233). The model's own field (log entry 2). -/
  undescribedOps : UndescribedOps
  /-- The host's moves not yet performed, oldest first; with none the next move is STEP. The model's own field (log entry 12). -/
  hostQueue : List HostMove
  /-- The byte on the RAND port, if the host presents one. The model's own field (log entry 5). -/
  rand : Option Byte
  /-- How many draws were made. The model's own field (log entry 5). -/
  draws : Nat
  deriving DecidableEq, Repr

/-- The state after reset (10_state.md R45, 70_reset_and_hazards.md R220). Memory lists nothing: what an unlisted
address reads as is the reset contents, fonts included. The stack entries are unobservable (R32): DESIGN CHOICE zero
(log entry 10). UNDESCRIBED_OPS is refuse, the value 00_scope.md R11 gives for this hardware (D2; log entry 2). -/
def State.reset : State where
  v := Vector.replicate 16 0
  pc := 0x200
  index := 0
  dt := 0
  st := 0
  stack := Vector.replicate 16 0
  sp := 0
  mem := []
  fb := Vector.replicate 32 (Vector.replicate 64 false)
  keys := Vector.replicate 16 false
  fault := none
  refused := none
  undescribedOps := .refuse
  hostQueue := []
  rand := none
  draws := 0

end Sys2Proof.Machine
end

