-- ==== Sys2Proof/Machine/Ops.lean ====
section
/-! DEFINITION. The named operations over registers, memory, the call stack and the framebuffer, the Step's advance,
and the taking of a fault or a refusal: one operation each, for every instruction. -/

namespace Sys2Proof.Machine

/-- What a step or a meaning answers. -/
abbrev Result := Host.Outcome State Fault Refusal

/-! ## Registers (10_state.md) -/

/-- V[r] (R21). -/
def getV (s : State) (r : Reg) : Byte := s.v[r.val]

/-- V[r] <- b (R14, R21). -/
def setV (s : State) (r : Reg) (b : Byte) : State := { s with v := s.v.set r.val b }

/-- PC <- a (R24). -/
def setPc (s : State) (a : Word) : State := { s with pc := a }

/-- I <- a (R28). -/
def setIndex (s : State) (a : Word) : State := { s with index := a }

/-- DT <- b (R29). -/
def setDt (s : State) (b : Byte) : State := { s with dt := b }

/-- ST <- b (R30). -/
def setSt (s : State) (b : Byte) : State := { s with st := b }

/-- FB <- f (R36). -/
def setFb (s : State) (f : Framebuffer) : State := { s with fb := f }

/-- M <- m (R33). -/
def setMem (s : State) (m : List Host.Cell) : State := { s with mem := m }

/-- The Step's advance: PC <- PC + 2, mod 65536 (30_encoding.md R80; 00_scope.md R14). -/
def advance (s : State) : State := setPc s (s.pc + 2)

/-- KEY[k] (R38). -/
def getKey (s : State) (k : Key) : Bool := s.keys[k.val]

/-- All the register numbers, and all the key numbers, in rising order. -/
def allRegs : List Reg := [0, 1, 2, 3, 4, 5, 6, 7, 8, 9, 10, 11, 12, 13, 14, 15]

/-- V0..Vx, in the order Fx55 and Fx65 go through them (45_undescribed_and_unmapped.md R178, R179). -/
def regsUpTo (x : Reg) : List Reg := allRegs.filter (fun r => r.val ≤ x.val)

/-- The pressed keys, lowest first (44_timers_keys_bcd.md R162). -/
def pressedKeys (s : State) : List Key := allRegs.filter (getKey s)

/-- KEY_SELECT(P): none when no key is pressed, else a pressed key; which one of several is a free value
(44_timers_keys_bcd.md R162; log entry 6). -/
def selectKey (s : State) : Option Key :=
  match pressedKeys s with
  | [] => none
  | [k] => some k
  | k :: k' :: rest =>
    some ((k :: k' :: rest).getD (Config.keySelect s.keys % (k :: k' :: rest).length) k)

/-! ## The byte store (20_memory.md) -/

/-- What an address that nothing has written reads as: the reset contents (10_state.md R45, 20_memory.md R62). -/
def unlistedByte (a : Nat) : Byte :=
  if a < Config.stdFontBase then 0
  else if a < Config.extFontBase then Config.stdFont (a - Config.stdFontBase)
  else if a < Config.extFontEnd then Config.extFont (a - Config.extFontBase)
  else 0

/-- M[a]. -/
def memGet (m : List Host.Cell) (a : Nat) : Byte :=
  match m with
  | [] => unlistedByte a
  | c :: rest => if c.1 = a then c.2 else memGet rest a

/-- Put a cell in its place among cells of other addresses. -/
def insertCell (m : List Host.Cell) (a : Nat) (b : Byte) : List Host.Cell :=
  match m with
  | [] => [(a, b)]
  | c :: rest => if a < c.1 then (a, b) :: c :: rest else c :: insertCell rest a b

/-- M[a] <- b, in the canonical form: a byte equal to what the address reads as unlisted leaves no cell. -/
def memSet (m : List Host.Cell) (a : Nat) (b : Byte) : List Host.Cell :=
  if b = unlistedByte a then m.filter (fun c => c.1 != a)
  else insertCell (m.filter (fun c => c.1 != a)) a b

/-- M[a], M[a+1], ... <- the bytes, in order (20_memory.md R69, 70_reset_and_hazards.md R222). -/
def memSetAll (m : List Host.Cell) (a : Nat) (bytes : List Byte) : List Host.Cell :=
  match bytes with
  | [] => m
  | b :: rest => memSetAll (memSet m a b) (a + 1) rest

/-- The canonical form of memory: addresses strictly rising, each in 0..4095, and no cell equal to what its address
reads as unlisted. -/
abbrev Memory.wf (m : List Host.Cell) : Prop :=
  m.Pairwise (fun c d => c.1 < d.1) ∧ ∀ c ∈ m, c.1 < Config.memSize ∧ c.2 ≠ unlistedByte c.1

/-- MemRead(a, 2), the two-byte window, big-endian (R52, R53). -/
def readWindow (s : State) (a : Nat) : Except Fault Word :=
  if a + 1 ≤ 0x0FFF then .ok (wordOfBytes (memGet s.mem a) (memGet s.mem (a + 1)))
  else .error (.memoryOutOfRange a)

/-- MemRead(a, 1), the high half of the window: the only way a byte is read (R54). -/
def readByte (s : State) (a : Nat) : Except Fault Byte :=
  match readWindow s a with
  | .ok w => .ok (highByte w)
  | .error f => .error f

/-- MemWrite(a, 1, b) (R55). -/
def writeByte (s : State) (a : Nat) (b : Byte) : Except Fault State :=
  if a ≤ 0x0FFF then .ok (setMem s (memSet s.mem a b))
  else .error (.memoryOutOfRange a)

/-- MemWrite of the bytes at a, a + 1, ..., in order, ending at the first that fails (R55, R61). -/
def writeBytes (s : State) (a : Nat) (bytes : List Byte) : Except Fault State :=
  match bytes with
  | [] => .ok s
  | b :: rest =>
    match writeByte s a b with
    | .ok t => writeBytes t (a + 1) rest
    | .error f => .error f

/-! ## The call stack (20_memory.md R58, R59, R60) -/

/-- Push(a) (R58). -/
def push (s : State) (a : Word) : Except Fault State :=
  if h : s.sp.val < 16 then
    .ok { s with stack := s.stack.set s.sp.val a, sp := ⟨s.sp.val + 1, by omega⟩ }
  else .error (.stackOverflow s.sp.val)

/-- Pop() (R59): the popped entry and the state after. -/
def pop (s : State) : Except Fault (Word × State) :=
  if h : 0 < s.sp.val then
    .ok (s.stack[s.sp.val - 1]'(by omega), { s with sp := ⟨s.sp.val - 1, by omega⟩ })
  else .error .stackUnderflow

/-! ## The framebuffer (10_state.md R36, 43_draw.md) -/

/-- The framebuffer with every pixel 0 (40_screen_and_control.md R100). -/
def clearFb : Framebuffer := Vector.replicate 32 (Vector.replicate 64 false)

/-- FB[row][col] <- v. -/
def setPixel (fb : Framebuffer) (row : Fin 32) (col : Fin 64) (v : Bool) : Framebuffer :=
  fb.set row.val (fb[row.val].set col.val v)

/-- Apply one sprite bit at a place that may lie past the edge: a clipped place and a bit 0 change nothing, a bit 1
toggles the pixel and collides with one that was 1 (43_draw.md R150, R152, R154). -/
def plotBit (p : Framebuffer × Bool) (row col : Nat) (bit : Bool) : Framebuffer × Bool :=
  if h : row < 32 ∧ col < 64 then
    if bit then
      (setPixel p.1 ⟨row, h.1⟩ ⟨col, h.2⟩ (!(p.1[row][col])), p.2 || p.1[row][col])
    else p
  else p

/-- The bits k of a sprite byte, for the ks given, bit 7 - k at column x0 + k (43_draw.md R150, R153). -/
def plotBits (row x0 : Nat) (b : Byte) (ks : List Nat) (p : Framebuffer × Bool) : Framebuffer × Bool :=
  match ks with
  | [] => p
  | k :: rest => plotBits row x0 b rest (plotBit p row (x0 + k) (b.getLsbD (7 - k)))

/-- One sprite row: its eight bits, left to right (43_draw.md R150). -/
def plotRow (row x0 : Nat) (b : Byte) (p : Framebuffer × Bool) : Framebuffer × Bool :=
  plotBits row x0 b [0, 1, 2, 3, 4, 5, 6, 7] p

/-- The sprite rows r, for the rs given: each is read, clipped or not, and then plotted (43_draw.md R150, R155). -/
def plotRows (s : State) (x0 y0 : Nat) (rs : List Nat) (p : Framebuffer × Bool) :
    Except Fault (Framebuffer × Bool) :=
  match rs with
  | [] => .ok p
  | r :: rest =>
    match readByte s (s.index.toNat + r) with
    | .ok b => plotRows s x0 y0 rest (plotRow (y0 + r) x0 b p)
    | .error f => .error f

/-! ## The random draw (42_index_and_random.md R142) -/

/-- The byte of this draw: what the host presents on RAND, else a free value. -/
def randValue (s : State) : Byte := s.rand.getD (Config.randByte s.draws)

/-- After a draw the port is empty and the count has advanced: no byte serves twice, none is chosen. -/
def afterDraw (s : State) : State := { s with rand := none, draws := s.draws + 1 }

/-! ## Taking a fault, taking a refusal (60_exceptions.md R201, R203) -/

/-- The code of a cause (R202). -/
def faultCode (f : Fault) : Nat :=
  match f with
  | .memoryOutOfRange _ => 1
  | .stackOverflow _ => 2
  | .stackUnderflow => 3
  | .keyIndexOutOfRange _ => 4

/-- The info a record keeps, by cause (R202). -/
def faultInfo (f : Fault) : Option Nat :=
  match f with
  | .memoryOutOfRange a => some a
  | .stackOverflow d => some d
  | .stackUnderflow => none
  | .keyIndexOutOfRange k => some k

/-- Take a fault: every piece of state as before the Step, PC naming the faulting instruction, and FAULT latched with
{cause, pc_inst, word or none, info} (R201). There is no return from it but RESET (R206). -/
def takeFault (s0 : State) (word : Option Word) (f : Fault) : State :=
  { s0 with fault := some { cause := f, pcInst := s0.pc, word := word } }

/-- Take a refusal: every piece of state as before the Step, and REFUSED marked (R203). -/
def takeRefusal (s0 : State) (word : Word) : State :=
  { s0 with refused := some { reason := .undescribed, pcInst := s0.pc, word := word } }

/-- End the Step of `i` that began in `s0`: with what its handler did, or with the fault it raised (30_encoding.md R80). -/
def endStep (i : Instr) (s0 : State) (r : Except Fault State) : Result :=
  match r with
  | .ok t => .next t
  | .error f => .next (takeFault s0 (some (encode i)) f)

/-- The Step of an undescribed form: refused, only the advance, or its conventional meaning, as UNDESCRIBED_OPS says
(45_undescribed_and_unmapped.md R170 to R172). -/
def undescribedStep (i : Instr) (s0 : State) (standard : Except Fault State) : Result :=
  match s0.undescribedOps with
  | .refuse => .next (takeRefusal s0 (encode i))
  | .noop => .next (advance s0)
  | .standard => endStep i s0 standard

/-- The Step of a SCHIP-only form: refused under refuse and under standard, only the advance under noop
(45_undescribed_and_unmapped.md R180, R181). -/
def schipStep (i : Instr) (s0 : State) : Result :=
  match s0.undescribedOps with
  | .refuse => .next (takeRefusal s0 (encode i))
  | .noop => .next (advance s0)
  | .standard => .next (takeRefusal s0 (encode i))

/-! ## The fetch (30_encoding.md R80) -/

/-- A Step or a TimerTick is taken only while nothing is latched (60_exceptions.md R201, R203). -/
def running (s : State) : Bool := s.fault.isNone && s.refused.isNone

/-- The word at PC (R71, R80). -/
def fetch (s : State) : Except Fault Word := readWindow s s.pc.toNat

/-- `s` with a table word where the next step fetches: the word in memory at PC, high byte first; PC at the entry point if
no word can be fetched at PC; nothing latched and no host move pending, so that the next move is the Step that runs it
(log entry 13). -/
def placeFetchWord (s : State) (nbits w : Nat) : State :=
  let p : Word := if s.pc.toNat + 1 ≤ 0x0FFF then s.pc else 0x200
  { s with
    pc := p
    mem := memSet (memSet s.mem p.toNat (highByte (tableWord nbits w))) (p.toNat + 1) (lowByte (tableWord nbits w))
    fault := none
    refused := none
    hostQueue := [] }

end Sys2Proof.Machine
end

