-- ==== Sys2Proof/Machine/Flags.lean ====
section
/-! DEFINITION. What each flag-writing instruction puts in VF, always 0 or 1 (10_state.md R22). -/

namespace Sys2Proof.Machine

/-- A flag as the byte VF receives. -/
def flagByte (b : Bool) : Byte := if b then 1 else 0

/-- The carry of an add: the unsigned sum exceeds 255 (41_register_alu.md R123, R131). -/
def carryFlag (a b : Byte) : Byte := flagByte (decide (a.toNat + b.toNat > 255))

/-- The flag of a subtract: minuend strictly greater than subtrahend (41_register_alu.md R127). -/
def greaterFlag (m s : Byte) : Byte := flagByte (decide (m.toNat > s.toNat))

/-- The flag of a right shift: the low bit before the shift (41_register_alu.md R129). -/
def lowBitFlag (b : Byte) : Byte := flagByte (b.getLsbD 0)

/-- The flag of a left shift: the high bit before the shift, as 0 or 1 (41_register_alu.md R130). -/
def highBitFlag (b : Byte) : Byte := flagByte (b.getLsbD 7)

/-- The flag of add-to-index: the new I exceeds 0x0FFF (42_index_and_random.md R141). -/
def indexFlag (t : Word) : Byte := flagByte (decide (t.toNat > 0x0FFF))

/-- The flag of a draw: some pixel went from 1 to 0 (43_draw.md R150, R154). -/
def collisionFlag (hit : Bool) : Byte := flagByte hit

end Sys2Proof.Machine
end

