-- ==== Sys2Proof/Machine/Operands.lean ====
section
/-! DEFINITION. The operand forms (30_encoding.md R74): register, immediate (always zero-extended, R73), address, and the
implicit ones through V0 and I. -/

namespace Sys2Proof.Machine

/-- An address operand nnn, zero-extended to 16 bits (R73; 42_index_and_random.md R140). -/
def addrOperand (nnn : Addr) : Word := nnn.zeroExtend 16

/-- A register operand as a 16-bit addend, zero-extended (R73). -/
def wideOperand (b : Byte) : Word := b.zeroExtend 16

/-- The target of jump(addr, offset): the sum, not reduced to 12 bits (40_screen_and_control.md R102). -/
def jumpTarget (nnn : Addr) (offset : Byte) : Word := addrOperand nnn + wideOperand offset

/-- The column a sprite starts at, V[x] & 63 (43_draw.md R151). -/
def startColumn (b : Byte) : Nat := (b &&& 63).toNat

/-- The row a sprite starts at, V[y] & 31 (43_draw.md R151). -/
def startRow (b : Byte) : Nat := (b &&& 31).toNat

/-- The rows of a sprite of height n, in order (43_draw.md R150). -/
def spriteRows (n : Nibble) : List Nat := List.range n.toNat

/-- The decimal digits of a byte: hundreds, tens, units (44_timers_keys_bcd.md R163). -/
def bcdDigits (b : Byte) : List Byte :=
  [BitVec.ofNat 8 (b.toNat / 100), BitVec.ofNat 8 (b.toNat / 10 % 10), BitVec.ofNat 8 (b.toNat % 10)]

/-- The first byte of the standard glyph of a byte's low nibble (45_undescribed_and_unmapped.md R176). -/
def stdGlyphAddr (b : Byte) : Word :=
  BitVec.ofNat 16 (Config.stdFontBase + Config.stdGlyphBytes * (b &&& 0x0F).toNat)

/-- The first byte of the extended glyph of a byte's low nibble (45_undescribed_and_unmapped.md R177). -/
def extGlyphAddr (b : Byte) : Word :=
  BitVec.ofNat 16 (Config.extFontBase + Config.extGlyphBytes * (b &&& 0x0F).toNat)

/-- V0..Vx, the bytes Fx55 stores (45_undescribed_and_unmapped.md R178). -/
def regBytes (s : State) (x : Reg) : List Byte := (regsUpTo x).map (getV s)

/-- The key a register names, if it names one (45_undescribed_and_unmapped.md R173). -/
def keyOperand (b : Byte) : Except Fault Key :=
  if h : b.toNat < 16 then .ok ⟨b.toNat, h⟩ else .error (.keyIndexOutOfRange b.toNat)

end Sys2Proof.Machine
end

