-- ==== Sys2Proof/Machine/Alu.lean ====
section
/-! DEFINITION. Register loads and 8-bit arithmetic (41_register_alu.md). Operand values are captured first; the writes
run in the order R132 gives. -/

namespace Sys2Proof.Machine

/-- LD Vx, nn (R120). -/
def execLdImm (x : Reg) (nn : Byte) (s : State) : Result := .next (setV (advance s) x nn)

/-- LD Vx, Vy (R121). -/
def execLdReg (x y : Reg) (s : State) : Result := .next (setV (advance s) x (getV s y))

/-- ADD Vx, nn: no flag (R122). -/
def execAddImm (x : Reg) (nn : Byte) (s : State) : Result :=
  .next (setV (advance s) x (getV s x + nn))

/-- ADD Vx, Vy: the sum, then the carry (R123, R132). -/
def execAddReg (x y : Reg) (s : State) : Result :=
  .next (setV (setV (advance s) x (getV s x + getV s y)) vf (carryFlag (getV s x) (getV s y)))

/-- OR Vx, Vy (R124). -/
def execOr (x y : Reg) (s : State) : Result :=
  .next (setV (advance s) x (getV s x ||| getV s y))

/-- AND Vx, Vy (R125). -/
def execAnd (x y : Reg) (s : State) : Result :=
  .next (setV (advance s) x (getV s x &&& getV s y))

/-- XOR Vx, Vy (R126). -/
def execXor (x y : Reg) (s : State) : Result :=
  .next (setV (advance s) x (getV s x ^^^ getV s y))

/-- The shared subtract handler: the flag, then the difference (R127, R132). -/
def subtract (s : State) (x : Reg) (m d : Byte) : State :=
  setV (setV s vf (greaterFlag m d)) x (m - d)

/-- SUB Vx, Vy (R127). -/
def execSub (x y : Reg) (s : State) : Result :=
  .next (subtract (advance s) x (getV s x) (getV s y))

/-- SUBN Vx, Vy (R128). -/
def execSubn (x y : Reg) (s : State) : Result :=
  .next (subtract (advance s) x (getV s y) (getV s x))

/-- SHR Vx: the flag, then the shift of V[x] as it stands after the flag write (R129, R132). -/
def execShr (x : Reg) (s : State) : Result :=
  let t := setV (advance s) vf (lowBitFlag (getV s x))
  .next (setV t x (getV t x >>> 1))

/-- SHL Vx: the flag, then the shift of V[x] as it stands after the flag write (R130, R132). -/
def execShl (x : Reg) (s : State) : Result :=
  let t := setV (advance s) vf (highBitFlag (getV s x))
  .next (setV t x (getV t x <<< 1))

end Sys2Proof.Machine
end

