-- ==== Sys2Proof/Machine/Control.lean ====
section
/-! DEFINITION. Clear-screen and control transfer (40_screen_and_control.md). -/

namespace Sys2Proof.Machine

/-- The shared skip handler: PC + 2 when the condition holds (R106). -/
def skipIf (s : State) (cond : Bool) : State := if cond then advance s else s

/-- CLS (R100). -/
def execCls (s : State) : Result := .next (setFb (advance s) clearFb)

/-- RET: PC <- Pop() (R101). -/
def execRet (s : State) : Result :=
  endStep .ret s ((pop (advance s)).map (fun p => setPc p.2 p.1))

/-- The shared jump handler: PC <- addr + offset (R102). -/
def jump (s : State) (nnn : Addr) (offset : Byte) : State := setPc s (jumpTarget nnn offset)

/-- JP nnn (R103). -/
def execJp (nnn : Addr) (s : State) : Result := .next (jump (advance s) nnn 0)

/-- JP V0, nnn (R104). -/
def execJpV0 (nnn : Addr) (s : State) : Result := .next (jump (advance s) nnn (getV s 0))

/-- CALL nnn: Push(PC), then PC <- nnn (R105). -/
def execCall (nnn : Addr) (s : State) : Result :=
  endStep (.call nnn) s ((push (advance s) (advance s).pc).map (fun t => setPc t (addrOperand nnn)))

/-- SE Vx, nn (R107). -/
def execSeImm (x : Reg) (nn : Byte) (s : State) : Result :=
  .next (skipIf (advance s) (getV s x == nn))

/-- SNE Vx, nn (R108). -/
def execSneImm (x : Reg) (nn : Byte) (s : State) : Result :=
  .next (skipIf (advance s) (getV s x != nn))

/-- SE Vx, Vy (R109). -/
def execSeReg (x y : Reg) (s : State) : Result :=
  .next (skipIf (advance s) (getV s x == getV s y))

/-- SNE Vx, Vy (R110). -/
def execSneReg (x y : Reg) (s : State) : Result :=
  .next (skipIf (advance s) (getV s x != getV s y))

end Sys2Proof.Machine
end

