-- ==== Sys2Proof/Machine/Draw.lean ====
section
/-! DEFINITION. Sprite draw (43_draw.md). -/

namespace Sys2Proof.Machine

/-- DRW Vx, Vy, n (R150): the start is captured before VF is written (R151); VF is the collision of the whole draw, 0 when
nothing collided (R154). -/
def execDrw (x y : Reg) (n : Nibble) (s : State) : Result :=
  endStep (.drw x y n) s
    ((plotRows (advance s) (startColumn (getV s x)) (startRow (getV s y)) (spriteRows n) (s.fb, false)).map
      (fun p => setV (setFb (advance s) p.1) vf (collisionFlag p.2)))

end Sys2Proof.Machine
end

