-- ==== Sys2Proof/Machine/Index.lean ====
section
/-! DEFINITION. Index register and random (42_index_and_random.md). -/

namespace Sys2Proof.Machine

/-- LD I, nnn (R140). -/
def execLdI (nnn : Addr) (s : State) : Result := .next (setIndex (advance s) (addrOperand nnn))

/-- ADD I, Vx: I mod 65536, then VF (R141). -/
def execAddI (x : Reg) (s : State) : Result :=
  .next (setV (setIndex (advance s) (s.index + wideOperand (getV s x))) vf
    (indexFlag (s.index + wideOperand (getV s x))))

/-- RND Vx, nn (R142). -/
def execRnd (x : Reg) (nn : Byte) (s : State) : Result :=
  .next (setV (afterDraw (advance s)) x (randValue s &&& nn))

end Sys2Proof.Machine
end

