-- ==== Sys2Proof/Machine/TimersKeys.lean ====
section
/-! DEFINITION. Timer writes, wait-for-key and store-BCD (44_timers_keys_bcd.md). -/

namespace Sys2Proof.Machine

/-- LD DT, Vx (R160). -/
def execLdDt (x : Reg) (s : State) : Result := .next (setDt (advance s) (getV s x))

/-- LD ST, Vx (R161). -/
def execLdSt (x : Reg) (s : State) : Result := .next (setSt (advance s) (getV s x))

/-- LD Vx, K: a pressed key's number, or PC back at this instruction (R162). -/
def execLdKey (x : Reg) (s : State) : Result :=
  match selectKey s with
  | some k => .next (setV (advance s) x (BitVec.ofNat 8 k.val))
  | none => .next (setPc (advance s) ((advance s).pc - 2))

/-- LD B, Vx (R163). -/
def execLdBcd (x : Reg) (s : State) : Result :=
  endStep (.ldBcd x) s (writeBytes (advance s) s.index.toNat (bcdDigits (getV s x)))

end Sys2Proof.Machine
end

