-- ==== Sys2Proof/Machine/Undescribed.lean ====
section
/-! DEFINITION. The undescribed forms, under each value of UNDESCRIBED_OPS (45_undescribed_and_unmapped.md R170 to R181). -/

namespace Sys2Proof.Machine

/-- SKP Vx (R173). -/
def execSkp (x : Reg) (s : State) : Result :=
  undescribedStep (.skp x) s
    ((keyOperand (getV s x)).map (fun k => skipIf (advance s) (getKey s k)))

/-- SKNP Vx (R174). -/
def execSknp (x : Reg) (s : State) : Result :=
  undescribedStep (.sknp x) s
    ((keyOperand (getV s x)).map (fun k => skipIf (advance s) (!getKey s k)))

/-- LD Vx, DT (R175). -/
def execLdFromDt (x : Reg) (s : State) : Result :=
  undescribedStep (.ldFromDt x) s (.ok (setV (advance s) x s.dt))

/-- LD F, Vx (R176). -/
def execLdFont (x : Reg) (s : State) : Result :=
  undescribedStep (.ldFont x) s (.ok (setIndex (advance s) (stdGlyphAddr (getV s x))))

/-- LD HF, Vx (R177). -/
def execLdHiFont (x : Reg) (s : State) : Result :=
  undescribedStep (.ldHiFont x) s (.ok (setIndex (advance s) (extGlyphAddr (getV s x))))

/-- LD [I], Vx: V0..Vx to memory from I, I unchanged (R178). -/
def execStoreRegs (x : Reg) (s : State) : Result :=
  undescribedStep (.storeRegs x) s (writeBytes (advance s) s.index.toNat (regBytes s x))

/-- The registers given, each from memory at I plus its number (R179). -/
def loadEach (s : State) (rs : List Reg) : Except Fault State :=
  match rs with
  | [] => .ok s
  | r :: rest =>
    match readByte s (s.index.toNat + r.val) with
    | .ok b => loadEach (setV s r b) rest
    | .error f => .error f

/-- LD Vx, [I]: V0..Vx from memory at I, I unchanged (R179). -/
def execLoadRegs (x : Reg) (s : State) : Result :=
  undescribedStep (.loadRegs x) s (loadEach (advance s) (regsUpTo x))

/-- SCD n (R180). -/
def execScd (n : Nibble) (s : State) : Result := schipStep (.scd n) s

/-- SCR (R180). -/
def execScr (s : State) : Result := schipStep .scr s

/-- SCL (R180). -/
def execScl (s : State) : Result := schipStep .scl s

/-- EXIT (R180). -/
def execExit (s : State) : Result := schipStep .exit s

/-- LOW (R180). -/
def execLow (s : State) : Result := schipStep .low s

/-- HIGH (R180). -/
def execHigh (s : State) : Result := schipStep .high s

/-- LD R, Vx (R180). -/
def execSaveFlags (x : Reg) (s : State) : Result := schipStep (.saveFlags x) s

/-- LD Vx, R (R180). -/
def execRestoreFlags (x : Reg) (s : State) : Result := schipStep (.restoreFlags x) s

end Sys2Proof.Machine
end

