-- ==== Sys2Proof/Machine/Unmapped.lean ====
section
/-! DEFINITION. The unmapped encodings: nothing beyond the Step's advance (45_undescribed_and_unmapped.md R185, R186).
One meaning per row of the table. -/

namespace Sys2Proof.Machine

/-- The Step of an unmapped word (R185). -/
def unmappedStep (s : State) : Result := .next (advance s)

/-- 8xy8 (R185). -/
def execUnmapped8xy8 (s : State) : Result := unmappedStep s

/-- 8xy9 (R185). -/
def execUnmapped8xy9 (s : State) : Result := unmappedStep s

/-- 8xyA (R185). -/
def execUnmapped8xyA (s : State) : Result := unmappedStep s

/-- 8xyB (R185). -/
def execUnmapped8xyB (s : State) : Result := unmappedStep s

/-- 8xyC (R185). -/
def execUnmapped8xyC (s : State) : Result := unmappedStep s

/-- 8xyD (R185). -/
def execUnmapped8xyD (s : State) : Result := unmappedStep s

/-- 8xyF (R185). -/
def execUnmapped8xyF (s : State) : Result := unmappedStep s

/-- Every other 0nnn (R185). -/
def execUnmapped0nnn (s : State) : Result := unmappedStep s

/-- Every other Exnn (R185). -/
def execUnmappedExnn (s : State) : Result := unmappedStep s

/-- Every other Fxnn (R185). -/
def execUnmappedFxnn (s : State) : Result := unmappedStep s

end Sys2Proof.Machine
end

