-- ==== Sys2Proof/WellFormed.lean ====
section
/-! DEFINITION. Which instructions are the reading of some word. Every field's range is in its type; what is left
to check is that a fallback row of the table is not used for a word that another row of its class matches
(30_encoding.md R83 "Precedence", 45_undescribed_and_unmapped.md R186). -/

namespace Sys2Proof

/-- The nnn of class 0x0 that a row other than the fallback matches (30_encoding.md R77). -/
def namedIn0 (nnn : Addr) : Bool :=
  nnn == 0x0E0 || nnn == 0x0EE || (0x0C0 ≤ nnn.toNat && nnn.toNat ≤ 0x0CF) ||
    (0x0FB ≤ nnn.toNat && nnn.toNat ≤ 0x0FF)

/-- The nn of class 0xE that a row other than the fallback matches (30_encoding.md R79). -/
def namedInE (nn : Byte) : Bool :=
  nn == 0x9E || nn == 0xA1

/-- The nn of class 0xF that a row other than the fallback matches (30_encoding.md R79). -/
def namedInF (nn : Byte) : Bool :=
  [0x07, 0x0A, 0x15, 0x18, 0x1E, 0x29, 0x30, 0x33, 0x55, 0x65, 0x75, 0x85].contains nn.toNat

/-- An instruction some word decodes to. -/
def Instr.wellFormed (i : Instr) : Bool :=
  match i with
  | .unmapped0nnn nnn => !namedIn0 nnn
  | .unmappedExnn _ nn => !namedInE nn
  | .unmappedFxnn _ nn => !namedInF nn
  | .cls => true
  | .ret => true
  | .jp _ => true
  | .call _ => true
  | .seImm _ _ => true
  | .sneImm _ _ => true
  | .seReg _ _ _ => true
  | .ldImm _ _ => true
  | .addImm _ _ => true
  | .ldReg _ _ => true
  | .orReg _ _ => true
  | .andReg _ _ => true
  | .xorReg _ _ => true
  | .addReg _ _ => true
  | .sub _ _ => true
  | .shr _ _ => true
  | .subn _ _ => true
  | .shl _ _ => true
  | .sneReg _ _ _ => true
  | .ldI _ => true
  | .jpV0 _ => true
  | .rnd _ _ => true
  | .drw _ _ _ => true
  | .ldKey _ => true
  | .ldDt _ => true
  | .ldSt _ => true
  | .addI _ => true
  | .ldBcd _ => true
  | .skp _ => true
  | .sknp _ => true
  | .ldFromDt _ => true
  | .ldFont _ => true
  | .ldHiFont _ => true
  | .storeRegs _ => true
  | .loadRegs _ => true
  | .scd _ => true
  | .scr => true
  | .scl => true
  | .exit => true
  | .low => true
  | .high => true
  | .saveFlags _ => true
  | .restoreFlags _ => true
  | .unmapped8xy8 _ _ => true
  | .unmapped8xy9 _ _ => true
  | .unmapped8xyA _ _ => true
  | .unmapped8xyB _ _ => true
  | .unmapped8xyC _ _ => true
  | .unmapped8xyD _ _ => true
  | .unmapped8xyF _ _ => true

/-- The class of an instruction (30_encoding.md R75; the "class" column of spec/opcode_table.json). -/
def Instr.kind (i : Instr) : InstrClass :=
  match i with
  | .cls => .described
  | .ret => .described
  | .jp _ => .described
  | .call _ => .described
  | .seImm _ _ => .described
  | .sneImm _ _ => .described
  | .seReg _ _ _ => .described
  | .ldImm _ _ => .described
  | .addImm _ _ => .described
  | .ldReg _ _ => .described
  | .orReg _ _ => .described
  | .andReg _ _ => .described
  | .xorReg _ _ => .described
  | .addReg _ _ => .described
  | .sub _ _ => .described
  | .shr _ _ => .described
  | .subn _ _ => .described
  | .shl _ _ => .described
  | .sneReg _ _ _ => .described
  | .ldI _ => .described
  | .jpV0 _ => .described
  | .rnd _ _ => .described
  | .drw _ _ _ => .described
  | .ldKey _ => .described
  | .ldDt _ => .described
  | .ldSt _ => .described
  | .addI _ => .described
  | .ldBcd _ => .described
  | .skp _ => .undescribed
  | .sknp _ => .undescribed
  | .ldFromDt _ => .undescribed
  | .ldFont _ => .undescribed
  | .ldHiFont _ => .undescribed
  | .storeRegs _ => .undescribed
  | .loadRegs _ => .undescribed
  | .scd _ => .schip
  | .scr => .schip
  | .scl => .schip
  | .exit => .schip
  | .low => .schip
  | .high => .schip
  | .saveFlags _ => .schip
  | .restoreFlags _ => .schip
  | .unmapped8xy8 _ _ => .unmapped
  | .unmapped8xy9 _ _ => .unmapped
  | .unmapped8xyA _ _ => .unmapped
  | .unmapped8xyB _ _ => .unmapped
  | .unmapped8xyC _ _ => .unmapped
  | .unmapped8xyD _ _ => .unmapped
  | .unmapped8xyF _ _ => .unmapped
  | .unmapped0nnn _ => .unmapped
  | .unmappedExnn _ _ => .unmapped
  | .unmappedFxnn _ _ => .unmapped

end Sys2Proof
end

