-- ==== Sys2Proof/Machine/HostPort.lean ====
section
/-! DEFINITION. What the host does to the core between Steps, and what it reads (10_state.md R46 to R48,
70_reset_and_hazards.md R220 to R233, 60_exceptions.md R210 to R214). -/

namespace Sys2Proof.Machine

/-- TIMER_TICK: each timer down by one if nonzero, never wrapping; no effect while a fault or a refusal is latched
(60_exceptions.md R201, R203, R210, R211). -/
def timerTick (s : State) : State :=
  if running s then
    { s with
      dt := if s.dt = 0 then 0 else s.dt - 1
      st := if s.st = 0 then 0 else s.st - 1 }
  else s

/-- KEY_WRITE(k, b): KEY[k] <- b; it acts while faulted too (10_state.md R38, R46; 60_exceptions.md R201). -/
def keyWrite (k : Key) (pressed : Bool) (s : State) : State := { s with keys := s.keys.set k.val pressed }

/-- FB_SET(row, col, v) (10_state.md R37, R46). -/
def fbSet (row : Fin 32) (col : Fin 64) (v : Bool) (s : State) : State := setFb s (setPixel s.fb row col v)

/-- FB_GET(row, col) (10_state.md R37, R46). -/
def fbGet (s : State) (row : Fin 32) (col : Fin 64) : Bool := s.fb[row.val][col.val]

/-- RAND: present a byte for the next draw (10_state.md R44, R46). -/
def randPort (b : Byte) (s : State) : State := { s with rand := some b }

/-- The state after reset of a run under a given value of the parameter UNDESCRIBED_OPS (00_scope.md R11,
70_reset_and_hazards.md R233). -/
def resetUnder (u : UndescribedOps) : State := { State.reset with undescribedOps := u }

/-- RESET re-runs creation in full (70_reset_and_hazards.md R220; D37). What is not the chip's stays: the parameter, the
host's own coming moves, the RAND port and the generator's count, which is not re-seeded (10_state.md R44; log entry 15). -/
def hostReset (s : State) : State :=
  { resetUnder s.undescribedOps with
    hostQueue := s.hostQueue
    rand := s.rand
    draws := s.draws }

/-- What LOAD_ROM answers the host (70_reset_and_hazards.md R222, R223). -/
inductive LoadResult where
  | loaded
  /-- LoadError: the ROM does not fit. -/
  | oversize
  deriving DecidableEq, Repr

/-- LOAD_ROM(bytes): M[0x200 + j] <- bytes[j], or, for more than 3584 bytes, LoadError and nothing changed
(70_reset_and_hazards.md R222, R223). -/
def loadRom (bytes : List Byte) (s : State) : LoadResult × State :=
  if bytes.length ≤ Config.maxRom then (.loaded, setMem s (memSetAll s.mem Config.programBase bytes))
  else (.oversize, s)

/-- The launch state: RESET, then LOAD_ROM(rom), in a run with the parameter fixed at `u`
(70_reset_and_hazards.md R233, 00_scope.md R11). -/
def launch (u : UndescribedOps) (rom : List Byte) : State := (loadRom rom (resetUnder u)).2

/-- SOUND_ACTIVE = (ST ≠ 0) (60_exceptions.md R212). -/
def soundActive (s : State) : Bool := s.st != 0

/-- The FAULT output (10_state.md R46). -/
def faultOutput (s : State) : Option FaultRecord := s.fault

/-- OBSERVE: all the state, read-only (10_state.md R46, 60_exceptions.md R217). -/
def observe (s : State) : State := s

/-- The UNMAPPED pulse of the Step taken from `s`: {pc_inst, word} when it executes an unmapped word
(45_undescribed_and_unmapped.md R187). An output, not state (log entry 16).
DESIGN CHOICE: an undescribed word under noop, which R172 lets execute as an unmapped one, gives no pulse (log entry 20).
Unsafe for a claim about this output under noop. -/
def unmappedPulse (s : State) : Option (Word × Word) :=
  if running s then
    match fetch s with
    | .ok w => if (decodeWord w).kind = .unmapped then some (s.pc, w) else none
    | .error _ => none
  else none

/-- The host's moves under the baseline TIMER_SCHEDULE: one TimerTick after every Step (60_exceptions.md R210). -/
def baselineSchedule (steps : Nat) : List HostMove :=
  match steps with
  | 0 => []
  | k + 1 => .step :: .timerTick :: baselineSchedule k

end Sys2Proof.Machine
end

