-- ==== Sys2Proof/Machine/Cycle.lean ====
section
/-! DEFINITION. One Step of the core (30_encoding.md R80), and one move of the machine: the host's oldest pending move, or,
with none, a Step (20_memory.md R64, 70_reset_and_hazards.md R229; log entry 12). -/

namespace Sys2Proof.Machine

/-- One Step (R80): no effect while a fault or a refusal is latched (60_exceptions.md R201, R203); else fetch and execute.
A fetch that faults leaves no word in the record (R204 gives it the first place). -/
def cycle (s : State) : Result :=
  if running s then
    match fetch s with
    | .ok w => exec (decodeWord w) s
    | .error f => .next (takeFault s none f)
  else .next s

/-- One move of the host, or the Step it asks for. -/
def hostMove (m : HostMove) (s : State) : Result :=
  match m with
  | .step => cycle s
  | .reset => .next (hostReset s)
  | .loadRom bytes => .next (loadRom bytes s).2
  | .timerTick => .next (timerTick s)
  | .keyWrite k pressed => .next (keyWrite k pressed s)
  | .fbSet row col v => .next (fbSet row col v s)
  | .randPort b => .next (randPort b s)

/-- The next move in the total order of Steps and host operations (20_memory.md R64). -/
def nextMove (s : State) : Result :=
  match s.hostQueue with
  | [] => cycle s
  | m :: rest => hostMove m { s with hostQueue := rest }

end Sys2Proof.Machine
end

