-- ==== Sys2Proof/Machine/Step.lean ====
section
/-! DEFINITION. The step of the machine and the placing of an instruction where it fetches. Both only call what
Machine/Cycle.lean and Machine/Ops.lean define. -/

namespace Sys2Proof.Machine

/-- One move of the machine: with no host move pending, one Step of the core. -/
def step (s : State) : Host.Outcome State Fault Refusal := nextMove s

/-- `s` with a table word placed so that the next step fetches and runs it (log entry 13). -/
def State.withFetchWord (s : State) (nbits w : Nat) : State := placeFetchWord s nbits w

end Sys2Proof.Machine
end

