-- ==== Sys2Proof/Safety.lean ====
section
/-! DEFINITION. What counts as a good run, in the terms claims use (70_reset_and_hazards.md R225, R233). -/

namespace Sys2Proof

open Sys2Proof.Machine

/-- A state the model speaks for and that no fault has ended: nothing latched. A claim about what a program does speaks of
such states (R225). -/
def Good (s : State) : Prop := s.fault = none ∧ s.refused = none

/-- How a run ends (R225). -/
inductive RunEnd where
  /-- (a) FAULT ≠ none: never a good end. -/
  | faulted
  /-- (b) REFUSED ≠ none: the model does not speak for the run. -/
  | refused
  /-- (c) the word at PC is 1nnn with nnn = PC. -/
  | selfJump
  deriving DecidableEq, Repr

/-- The word at PC is a jump to PC itself (R225). -/
def atSelfJump (s : State) : Bool :=
  match fetch s with
  | .ok w => (fieldClass w).toNat == 0x1 && (fieldNnn w).toNat == s.pc.toNat
  | .error _ => false

/-- The end `s` is, if it is one (R225). -/
def runEnd (s : State) : Option RunEnd :=
  if s.fault.isSome then some .faulted
  else if s.refused.isSome then some .refused
  else if atSelfJump s then some .selfJump
  else none

/-! ## What a Step leaves alone -/

/-- The parts of the state, for saying which of them an instruction leaves alone (10_state.md R20). -/
inductive Part where
  | v
  | pc
  | index
  | dt
  | st
  | stack
  | mem
  | fb
  | keys
  | fault
  | refused
  | params
  | queue
  | rand
  deriving DecidableEq, Repr

/-- The part reads in `t` as it reads in `s`: every register, every entry, every byte, every pixel, every key. -/
def Keeps (p : Part) (s t : State) : Prop :=
  match p with
  | .v => ∀ r, getV t r = getV s r
  | .pc => t.pc = s.pc
  | .index => t.index = s.index
  | .dt => t.dt = s.dt
  | .st => t.st = s.st
  | .stack => t.stack = s.stack ∧ t.sp = s.sp
  | .mem => ∀ a, memGet t.mem a = memGet s.mem a
  | .fb => ∀ row col, fbGet t row col = fbGet s row col
  | .keys => ∀ k, getKey t k = getKey s k
  | .fault => t.fault = s.fault
  | .refused => t.refused = s.refused
  | .params => t.undescribedOps = s.undescribedOps
  | .queue => t.hostQueue = s.hostQueue
  | .rand => t.rand = s.rand ∧ t.draws = s.draws

/-- Every part but those named is left alone. -/
def OnlyChanges (parts : List Part) (s t : State) : Prop := ∀ p, p ∉ parts → Keeps p s t

/-- Every register but those named is left alone. -/
def OtherRegsKept (regs : List Reg) (s t : State) : Prop := ∀ r, r ∉ regs → getV t r = getV s r

/-! ## Invariants -/

/-- What 10_state.md R26 derives of PC and of the values CALL pushes: PC at most 0x10FE, every entry below SP at most 0x1000. -/
def PcBounded (s : State) : Prop :=
  s.pc.toNat ≤ 0x10FE ∧ ∀ k : Fin 16, k.val < s.sp.val → s.stack[k.val].toNat ≤ 0x1000

end Sys2Proof
end

