-- ==== Sys2Proof/Certificates/Slice0/Obligations.lean ====
section
/-! DEFINITION. The statements for the provers, each a rule of the spec about what an instruction or the machine does. -/

namespace Sys2Proof

open Sys2Proof.Machine

/-- The sprite bit that DRW from `s` with n rows starting at (x0, y0) applies to FB[row][col]: the bit of the byte at
I + (row - y0), bit 7 leftmost; 0 outside the sprite (43_draw.md R150, R153). -/
def spriteBit (s : State) (x0 y0 n row col : Nat) : Bool :=
  decide (y0 ≤ row ∧ row - y0 < n ∧ x0 ≤ col ∧ col - x0 < 8) &&
    (memGet s.mem (s.index.toNat + (row - y0))).getLsbD (7 - (col - x0))

/-- FAULT's record for a fault of `i` at `s` (60_exceptions.md R201). -/
def faulted (s : State) (i : Instr) (f : Fault) : State :=
  { s with fault := some { cause := f, pcInst := s.pc, word := some (encode i) } }

/-- REFUSED's record for `i` at `s` (60_exceptions.md R203). -/
def refusedAt (s : State) (i : Instr) : State :=
  { s with refused := some { reason := .undescribed, pcInst := s.pc, word := encode i } }

/-- The instructions that write VF as a flag (10_state.md R22). -/
def writesFlag (i : Instr) : Bool :=
  match i with
  | .addReg _ _ | .sub _ _ | .subn _ _ | .shr _ _ | .shl _ _ | .addI _ | .drw _ _ _ => true
  | _ => false

/-- The registers an instruction names as its destination (10_state.md R23). -/
def destinations (i : Instr) : List Reg :=
  match i with
  | .ldImm x _ | .addImm x _ | .rnd x _ => [x]
  | .ldReg x _ | .orReg x _ | .andReg x _ | .xorReg x _ | .addReg x _ | .sub x _ | .shr x _ | .subn x _ | .shl x _ => [x]
  | .ldKey x | .ldFromDt x => [x]
  | .loadRegs x => regsUpTo x
  | _ => []

end Sys2Proof

open Sys2Proof Sys2Proof.Machine

/-! ## Encoding and decoding -/

/-- 30_encoding.md R72: the fields, by the decoder's masks and shifts. -/
def Obligations.FieldsAreTheMasksOfTheWord : Prop :=
  ∀ w : Word,
    (fieldClass w).zeroExtend 16 <<< 12 = w &&& 0xF000 ∧
    (fieldX w).val = ((w &&& 0x0F00) >>> 8).toNat ∧
    (fieldY w).val = ((w &&& 0x00F0) >>> 4).toNat ∧
    (fieldN w).zeroExtend 16 = w &&& 0x000F ∧
    (fieldNn w).zeroExtend 16 = w &&& 0x00FF ∧
    (fieldNnn w).zeroExtend 16 = w &&& 0x0FFF

/-- 30_encoding.md R88, the worked example, clause by clause.
Derived: The encodings are the spec's D1 and D25 (log entry 1). -/
def Obligations.WorkedDecodeExample : Prop :=
  ((fieldClass 0xD125).toNat = 0xD ∧ fieldX 0xD125 = 1 ∧ fieldY 0xD125 = 2 ∧ (fieldN 0xD125).toNat = 5 ∧
    (fieldNn 0xD125).toNat = 0x25 ∧ (fieldNnn 0xD125).toNat = 0x125 ∧ decodeWord 0xD125 = .drw 1 2 5) ∧
  (decodeWord 0x8AB6 = .shr 0xA 0xB ∧ ∀ y s, exec (.shr 0xA y) s = exec (.shr 0xA 0xB) s) ∧
  (decodeWord 0x5121 = .seReg 1 2 1 ∧ ∀ n s, exec (.seReg 1 2 n) s = exec (.seReg 1 2 1) s) ∧
  (decodeWord 0x0123 = .unmapped0nnn 0x123 ∧ (decodeWord 0x0123).kind = .unmapped ∧
    ∀ s, exec (decodeWord 0x0123) s = .next { s with pc := s.pc + 2 }) ∧
  (decodeWord 0xE09E = .skp 0 ∧ (decodeWord 0xE09E).kind = .undescribed)

/-- Words written out from 30_encoding.md R83: of every class nibble, so of every family of the table.
Derived: The encodings are the spec's D1 (log entry 1). -/
def Obligations.EncodingTableWordsDecode : Prop :=
  decodeWord 0x00E0 = .cls ∧ decodeWord 0x00EE = .ret ∧ decodeWord 0x1234 = .jp 0x234 ∧
  decodeWord 0x2208 = .call 0x208 ∧ decodeWord 0x3342 = .seImm 3 0x42 ∧ decodeWord 0x70FF = .addImm 0 0xFF ∧
  decodeWord 0x8014 = .addReg 0 1 ∧ decodeWord 0x8F0E = .shl 0xF 0 ∧ decodeWord 0xAFFF = .ldI 0xFFF ∧
  decodeWord 0xC30F = .rnd 3 0x0F ∧ decodeWord 0xF10A = .ldKey 1 ∧ decodeWord 0xF033 = .ldBcd 0 ∧
  decodeWord 0xE1A1 = .sknp 1 ∧ decodeWord 0xF165 = .loadRegs 1 ∧ decodeWord 0x00C5 = .scd 5 ∧
  decodeWord 0x8128 = .unmapped8xy8 1 2 ∧ decodeWord 0xF0FF = .unmappedFxnn 0 0xFF ∧
  decodeWord 0x4342 = .sneImm 3 0x42 ∧ decodeWord 0x5120 = .seReg 1 2 0 ∧ decodeWord 0x6A42 = .ldImm 0xA 0x42 ∧
  decodeWord 0x9120 = .sneReg 1 2 0 ∧ decodeWord 0xB300 = .jpV0 0x300 ∧ decodeWord 0xD012 = .drw 0 1 2

/-- Every well-formed instruction is what its two bytes decode to, with nothing left over (R71, R83).
Derived: The encodings are the spec's D1 (log entry 1). -/
def Obligations.DecodeOfEncodeIsTheInstruction : Prop :=
  ∀ i : Instr, i.wellFormed = true → decode (encodeBytes i) = .ok (i, [])

/-- Every word has one reading, a well-formed one, and loses no bit in it (R75, R83).
Derived: The encodings are the spec's D1 (log entry 1). -/
def Obligations.EncodeOfDecodeIsTheWord : Prop :=
  ∀ w : Word, (decodeWord w).wellFormed = true ∧ encode (decodeWord w) = w

/-! ## The Step -/

/-- A Step fetches the two bytes at PC and executes the instruction they decode to (R80); a pending STEP of the host is
that same Step, with the move taken off the queue.
Derived: That the host's coming moves stand in a queue, and that an empty one means a Step, is the model's choice (log
entry 12). -/
def Obligations.StepRunsTheDecodedInstruction : Prop :=
  ∀ (s : State) (i : Instr), Good s → s.pc.toNat + 1 ≤ 0x0FFF →
    decode [memGet s.mem s.pc.toNat, memGet s.mem (s.pc.toNat + 1)] = .ok (i, []) → i.wellFormed = true →
    (s.hostQueue = [] → step s = exec i s) ∧
    (∀ rest, s.hostQueue = .step :: rest → step s = exec i { s with hostQueue := rest })

/-- A Step whose PC + 1 exceeds 0x0FFF faults with MemoryOutOfRange at PC, no word, and nothing else changed
(R53, R80, R201, R202).
Derived: The check is the spec's D3; that a fault is a next state with FAULT latched is log entry 3; the empty queue
is log entry 12. -/
def Obligations.FetchOutOfRangeFaults : Prop :=
  ∀ s : State, Good s → s.hostQueue = [] → 0x0FFF < s.pc.toNat + 1 →
    step s = .next { s with
      fault := some { cause := .memoryOutOfRange s.pc.toNat, pcInst := s.pc, word := none } }

/-- Every move of the machine completes and gives control back: no step stops the machine (R80, R185, R201, R203).
Derived: Taking faults and refusals as next states is log entries 3 and 4. -/
def Obligations.EveryStepAnswersANextState : Prop :=
  (∀ s : State, ∃ t, step s = .next t) ∧ (∀ (i : Instr) (s : State), ∃ t, exec i s = .next t)

/-- A fault is precise and records the faulting instruction (60_exceptions.md R201): over all instructions, one that
changes FAULT leaves every other piece of state as before.
Derived: Precise faults are the spec's D6 (log entries 1 and 3). -/
def Obligations.FaultsArePrecise : Prop :=
  ∀ (i : Instr) (s t : State), exec i s = .next t → t.fault ≠ s.fault →
    ∃ f : Fault, t = faulted s i f

/-- While FAULT or REFUSED is set a STEP and a TIMER_TICK have no effect (60_exceptions.md R201, R203).
Derived: The spec's D6 and D8; the queue is the model's (log entry 12). -/
def Obligations.LatchedCoreIsFrozen : Prop :=
  ∀ s : State, ¬ Good s →
    (s.hostQueue = [] → step s = .next s) ∧
    (∀ rest, s.hostQueue = .step :: rest → step s = .next { s with hostQueue := rest }) ∧
    (∀ rest, s.hostQueue = .timerTick :: rest → step s = .next { s with hostQueue := rest })

/-- A recorded fault or refusal stays recorded until RESET, whatever the core or the host does
(10_state.md R41, R42; 60_exceptions.md R201).
Derived: The spec's D2 and D6 (log entry 1). -/
def Obligations.LatchesClearOnlyByReset : Prop :=
  ∀ s t : State, step s = .next t → s.hostQueue.head? ≠ some .reset →
    (∀ r, s.fault = some r → t.fault = some r) ∧ (∀ r, s.refused = some r → t.refused = some r)

/-- A byte stored by one Step is what the next fetch sees (20_memory.md R67).
Derived: The spec derives R67 (log entry 1). -/
def Obligations.StoreIsSeenByTheNextFetch : Prop :=
  ∀ (s t : State) (a : Nat) (b : Byte), writeByte s a b = .ok t →
    (∀ w, s.pc.toNat = a → fetch t = .ok w → highByte w = b) ∧
    (∀ w, s.pc.toNat + 1 = a → fetch t = .ok w → lowByte w = b)

/-- A self-jump maps its state to itself (70_reset_and_hazards.md R225 (c)).
Derived: The end of a run is the spec's D35; the queue is the model's (log entry 12). -/
def Obligations.SelfJumpStateIsAFixedPoint : Prop :=
  ∀ s : State, runEnd s = some .selfJump → s.hostQueue = [] → step s = .next s

/-! ## Whole-machine rules -/

/-- Every step keeps memory in its canonical form.
Derived: The canonical form is the model's representation (log entry 9). -/
def Obligations.StepKeepsMemoryCanonical : Prop :=
  ∀ s t : State, Memory.wf s.mem → step s = .next t → Memory.wf t.mem

/-- Every step keeps PC at most 0x10FE and every pushed value at most 0x1000 (10_state.md R26).
Derived: The spec derives R26 (log entry 1). -/
def Obligations.StepKeepsPcBounded : Prop :=
  ∀ s t : State, PcBounded s → step s = .next t → PcBounded t

/-- The state after reset meets the invariants, and nothing is latched in it.
Derived: FAULT and REFUSED none at reset is the spec's D19 (log entry 11). -/
def Obligations.ResetMeetsTheInvariants : Prop :=
  Memory.wf State.reset.mem ∧ PcBounded State.reset ∧ Good State.reset

/-- I, DT, ST, the call stack and the framebuffer are written only by the instructions the spec names
(10_state.md R28, R29, R30, R32, R36).
Derived: R28 and R32 carry the spec's D34 and D5 (log entry 1). -/
def Obligations.OnlyNamedInstructionsWriteEachRegister : Prop :=
  ∀ (i : Instr) (s t : State), exec i s = .next t →
    (¬ Keeps .index s t →
      (∃ nnn, i = .ldI nnn) ∨ (∃ x, i = .addI x) ∨ (∃ x, i = .ldFont x) ∨ (∃ x, i = .ldHiFont x)) ∧
    (¬ Keeps .dt s t → ∃ x, i = .ldDt x) ∧
    (¬ Keeps .st s t → ∃ x, i = .ldSt x) ∧
    (¬ Keeps .stack s t → (∃ nnn, i = .call nnn) ∨ i = .ret) ∧
    (¬ Keeps .fb s t → i = .cls ∨ ∃ x y n, i = .drw x y n)

/-- Memory is written only by Fx33 and Fx55, and only from I up (20_memory.md R55); no instruction writes the keypad
(10_state.md R38) or moves a parameter of the run (70_reset_and_hazards.md R233), and only Cxnn draws.
Derived: The queue and the draw count are the model's own fields (log entries 5 and 12). -/
def Obligations.OnlyNamedInstructionsWriteMemoryOrDraw : Prop :=
  ∀ (i : Instr) (s t : State), exec i s = .next t →
    (¬ Keeps .mem s t → (∃ x, i = .ldBcd x) ∨ ∃ x, i = .storeRegs x) ∧
    (∀ a, a < s.index.toNat → memGet t.mem a = memGet s.mem a) ∧
    Keeps .keys s t ∧ Keeps .params s t ∧ Keeps .queue s t ∧
    (¬ Keeps .rand s t → ∃ x nn, i = .rnd x nn)

/-- VF is left alone by every instruction that is neither flag-writing nor has VF as its destination (10_state.md R22), and
so is every register that is no destination and not a written flag.
Derived: The spec derives R23 (log entry 1). -/
def Obligations.RegistersChangeOnlyAsDestinationOrFlag : Prop :=
  ∀ (i : Instr) (s t : State), exec i s = .next t → ∀ r : Reg, r ∉ destinations i →
    (r = vf → writesFlag i = false) → getV t r = getV s r

/-- A parameter of the run is the same after every move of the machine (70_reset_and_hazards.md R233).
Derived: That the parameter stands in State, and that RESET keeps it, is the model's choice (log entries 2 and 15). -/
def Obligations.ParametersAreFixedForTheRun : Prop :=
  ∀ s t : State, step s = .next t → t.undescribedOps = s.undescribedOps

/-! ## Reset and the host -/

/-- 10_state.md R45: the values after reset, the fonts being the parameters STD_FONT and EXT_FONT; and the value
00_scope.md R11 gives the parameter UNDESCRIBED_OPS.
Derived: UNDESCRIBED_OPS = refuse is the spec's D2 (log entry 2); SP, FB, KEY, FAULT and REFUSED at reset are the
spec's D19 (log entry 11); STD_FONT and EXT_FONT are the model's parameters (log entries 7 and 8), whose values the
statement does not use. -/
def Obligations.ResetLeavesTheListedValues : Prop :=
  State.reset.pc = 0x200 ∧ State.reset.index = 0 ∧ (∀ r, getV State.reset r = 0) ∧
  State.reset.dt = 0 ∧ State.reset.st = 0 ∧
  (∀ a, ¬ (0x050 ≤ a ∧ a < 0x140) → memGet State.reset.mem a = 0) ∧
  (∀ j, j < 80 → memGet State.reset.mem (0x050 + j) = Config.stdFont j) ∧
  (∀ j, j < 160 → memGet State.reset.mem (0x0A0 + j) = Config.extFont j) ∧
  State.reset.sp = 0 ∧ (∀ row col, fbGet State.reset row col = false) ∧
  (∀ k, getKey State.reset k = false) ∧ State.reset.fault = none ∧ State.reset.refused = none ∧
  State.reset.undescribedOps = .refuse

/-- RESET re-creates the whole state of the chip, from any state, faulted or not, and so erases a loaded ROM
(70_reset_and_hazards.md R220). What it keeps is the model's own fields (log entry 15).
Derived: Re-running creation in full is the spec's D37; what is kept is the model's choice about its own fields (log
entry 15), and so are the queue (log entry 12) and the zeros of the STACK entries, which R45 leaves without a value
(log entry 10). -/
def Obligations.ResetRecreatesTheWholeState : Prop :=
  ∀ (s : State) (rest : List HostMove), s.hostQueue = .reset :: rest →
    ∃ t, step s = .next t ∧ OnlyChanges [.params, .queue, .rand] State.reset t ∧
      t.undescribedOps = s.undescribedOps ∧ t.hostQueue = rest ∧ t.rand = s.rand ∧ t.draws = s.draws

/-- 70_reset_and_hazards.md R222: a ROM that fits is copied from 0x200 and nothing else changes; one that does not is
answered with LoadError and nothing changes. A pending LOAD_ROM is performed so by step, with anything latched or nothing
(60_exceptions.md R201).
Derived: The size limit and that an oversized ROM writes nothing are the spec's D22 (log entry 1); the queue is the
model's (log entry 12). -/
def Obligations.LoadRomCopiesTheBytes : Prop :=
  ∀ (bytes : List Byte) (s : State),
    (bytes.length ≤ 0x1000 - 0x200 →
      ∃ t, loadRom bytes s = (.loaded, t) ∧ OnlyChanges [.mem] s t ∧
        (∀ j (h : j < bytes.length), memGet t.mem (0x200 + j) = bytes[j]) ∧
        (∀ a, a < 0x200 ∨ 0x200 + bytes.length ≤ a → memGet t.mem a = memGet s.mem a)) ∧
    (0x1000 - 0x200 < bytes.length → loadRom bytes s = (.oversize, s)) ∧
    (∀ rest, s.hostQueue = .loadRom bytes :: rest →
      step s = .next { (loadRom bytes s).2 with hostQueue := rest })

/-- TimerTick (60_exceptions.md R210, R211): with nothing latched each timer goes down by one if nonzero and never wraps;
nothing else changes. A pending TIMER_TICK is performed so by step.
Derived: The spec derives R211; that TimerTick is the host's own event is its D7 (log entry 1); the queue is the
model's (log entry 12). -/
def Obligations.TimerTickCountsDownToZero : Prop :=
  ∀ s : State, Good s →
    (timerTick s).dt.toNat = s.dt.toNat - 1 ∧ (timerTick s).st.toNat = s.st.toNat - 1 ∧
    OnlyChanges [.dt, .st] s (timerTick s) ∧
    (∀ rest, s.hostQueue = .timerTick :: rest →
      ∃ t, step s = .next t ∧ t.dt.toNat = s.dt.toNat - 1 ∧ t.st.toNat = s.st.toNat - 1 ∧ t.hostQueue = rest ∧
        OnlyChanges [.dt, .st, .queue] s t)

/-- SOUND_ACTIVE (60_exceptions.md R212): it is ST ≠ 0; Fx18 with a nonzero value raises it; Fx18 with 0, or the TimerTick
that takes ST from 1 to 0, lowers it.
Derived: The spec's D31 (log entry 1). -/
def Obligations.SoundActiveFollowsTheSoundTimer : Prop :=
  (∀ s : State, soundActive s = true ↔ s.st ≠ 0) ∧
  (∀ (x : Reg) (s : State), ∃ t, exec (.ldSt x) s = .next t ∧
    (soundActive t = true ↔ getV s x ≠ 0)) ∧
  (∀ s : State, Good s → s.st = 1 → soundActive s = true ∧ soundActive (timerTick s) = false)

/-- KEY_WRITE and FB_SET change the one entry they name, RAND presents its byte, and they act while a fault is latched
(10_state.md R37, R38; 60_exceptions.md R201).
Derived: The ports are the spec's D23; the RAND port as a field and the queue are the model's (log entries 5 and 12). -/
def Obligations.HostWritesChangeOneEntry : Prop :=
  (∀ (s : State) (k : Key) (b : Bool) (rest : List HostMove), s.hostQueue = .keyWrite k b :: rest →
    ∃ t, step s = .next t ∧ OnlyChanges [.keys, .queue] s t ∧ t.hostQueue = rest ∧
      ∀ j, getKey t j = if j = k then b else getKey s j) ∧
  (∀ (s : State) (row : Fin 32) (col : Fin 64) (b : Bool) (rest : List HostMove),
    s.hostQueue = .fbSet row col b :: rest →
    ∃ t, step s = .next t ∧ OnlyChanges [.fb, .queue] s t ∧ t.hostQueue = rest ∧
      ∀ r c, fbGet t r c = if r = row ∧ c = col then b else fbGet s r c) ∧
  (∀ (s : State) (b : Byte) (rest : List HostMove), s.hostQueue = .randPort b :: rest →
    ∃ t, step s = .next t ∧ OnlyChanges [.rand, .queue] s t ∧ t.hostQueue = rest ∧ t.rand = some b ∧ t.draws = s.draws)

/-! ## The memory unit -/

/-- 20_memory.md R53 and R54: the two-byte window, big-endian, faulting iff it passes 0x0FFF; a byte is its high half.
Derived: The spec's D3 and D4 (log entry 1). -/
def Obligations.WindowReadIsBigEndianAndBounded : Prop :=
  ∀ (s : State) (a : Nat),
    (a + 1 ≤ 0x0FFF →
      ∃ w, readWindow s a = .ok w ∧
        w.toNat = (memGet s.mem a).toNat * 256 + (memGet s.mem (a + 1)).toNat ∧
        readByte s a = .ok (memGet s.mem a)) ∧
    (0x0FFF < a + 1 → readWindow s a = .error (.memoryOutOfRange a) ∧ readByte s a = .error (.memoryOutOfRange a))

/-- 20_memory.md R55: a byte write changes M[a] and nothing else, and faults iff a exceeds 0x0FFF.
Derived: The check is the spec's D3 (log entry 1). -/
def Obligations.ByteWriteChangesOneCell : Prop :=
  ∀ (s : State) (a : Nat) (b : Byte),
    (a ≤ 0x0FFF →
      ∃ t, writeByte s a b = .ok t ∧ memGet t.mem a = b ∧
        (∀ c, c ≠ a → memGet t.mem c = memGet s.mem c) ∧ OnlyChanges [.mem] s t) ∧
    (0x0FFF < a → writeByte s a b = .error (.memoryOutOfRange a))

/-- 20_memory.md R58 and R59: push and pop, their faults, and that a pop gives back what was pushed.
Derived: The faults are the spec's D5 (log entry 1). -/
def Obligations.StackIsABoundedLifo : Prop :=
  ∀ (s : State) (a : Word),
    (s.sp.val = 16 → push s a = .error (.stackOverflow 16)) ∧
    (s.sp.val < 16 →
      ∃ t, push s a = .ok t ∧ t.sp.val = s.sp.val + 1 ∧ OnlyChanges [.stack] s t ∧
        (∀ k : Fin 16, t.stack[k.val] = if k.val = s.sp.val then a else s.stack[k.val]) ∧
        ∃ u, pop t = .ok (a, u) ∧ u.sp = s.sp) ∧
    (s.sp.val = 0 → pop s = .error .stackUnderflow) ∧
    (∀ k : Fin 16, s.sp.val = k.val + 1 →
      pop s = .ok (s.stack[k.val], { s with sp := ⟨k.val, by omega⟩ }))

/-! ## Clear-screen and control transfer (40_screen_and_control.md) -/

/-- R100: 00E0 zeroes every pixel, advances, and leaves everything else, VF among it. -/
def Obligations.ClsClearsEveryPixel : Prop :=
  decodeWord 0x00E0 = .cls ∧
  ∀ s : State, ∃ t, exec .cls s = .next t ∧ t.pc = s.pc + 2 ∧ (∀ row col, fbGet t row col = false) ∧
    OnlyChanges [.fb, .pc] s t

/-- R101 and R105 where they complete: CALL pushes the address after it and jumps; RET goes to the popped address.
Derived: That they fault at the bounds is the spec's D5, another statement here (log entry 1). -/
def Obligations.CallAndRetMoveThroughTheStack : Prop :=
  (∀ (nnn : Addr) (s : State), s.sp.val < 16 →
    ∃ t, exec (.call nnn) s = .next t ∧ t.pc.toNat = nnn.toNat ∧ t.sp.val = s.sp.val + 1 ∧
      (∀ k : Fin 16, t.stack[k.val] = if k.val = s.sp.val then s.pc + 2 else s.stack[k.val]) ∧
      OnlyChanges [.stack, .pc] s t) ∧
  (∀ (s : State) (k : Fin 16), s.sp.val = k.val + 1 →
    ∃ t, exec .ret s = .next t ∧ t.pc = s.stack[k.val] ∧ t.sp.val = k.val ∧
      (∀ j : Fin 16, j.val < k.val → t.stack[j.val] = s.stack[j.val]) ∧ OnlyChanges [.stack, .pc] s t)

/-- R101 and R105 where they fault: a full stack and an empty one, precisely (60_exceptions.md R202).
Derived: The faults are the spec's D5 and D6 (log entries 1 and 3). -/
def Obligations.CallAndRetFaultAtTheStackBounds : Prop :=
  (∀ (nnn : Addr) (s : State), s.sp.val = 16 →
    exec (.call nnn) s = .next (faulted s (.call nnn) (.stackOverflow 16))) ∧
  (∀ s : State, s.sp.val = 0 → exec .ret s = .next (faulted s .ret .stackUnderflow))

/-- R102, R103, R104: PC becomes nnn, or nnn + V0 with no 12-bit mask; nothing else changes.
Derived: No mask is the spec's D17 (log entry 1). -/
def Obligations.JumpsSetThePc : Prop :=
  (∀ (nnn : Addr) (s : State), ∃ t, exec (.jp nnn) s = .next t ∧ t.pc.toNat = nnn.toNat ∧ OnlyChanges [.pc] s t) ∧
  (∀ (nnn : Addr) (s : State), ∃ t, exec (.jpV0 nnn) s = .next t ∧
    t.pc.toNat = nnn.toNat + (getV s 0).toNat ∧ OnlyChanges [.pc] s t)

/-- R106 to R110: each skip advances by 4 when its condition holds and by 2 when not, for every n field, and nothing else
changes.
Derived: That N is not examined is derived by the spec (R81, D25; log entry 1). -/
def Obligations.SkipsAdvanceByTwoOrFour : Prop :=
  ∀ (x y : Reg) (n : Nibble) (nn : Byte) (s : State),
    (∃ t, exec (.seImm x nn) s = .next t ∧ OnlyChanges [.pc] s t ∧
      t.pc = if getV s x = nn then s.pc + 4 else s.pc + 2) ∧
    (∃ t, exec (.sneImm x nn) s = .next t ∧ OnlyChanges [.pc] s t ∧
      t.pc = if getV s x = nn then s.pc + 2 else s.pc + 4) ∧
    (∃ t, exec (.seReg x y n) s = .next t ∧ OnlyChanges [.pc] s t ∧
      t.pc = if getV s x = getV s y then s.pc + 4 else s.pc + 2) ∧
    (∃ t, exec (.sneReg x y n) s = .next t ∧ OnlyChanges [.pc] s t ∧
      t.pc = if getV s x = getV s y then s.pc + 2 else s.pc + 4)

/-! ## Register loads and 8-bit arithmetic (41_register_alu.md) -/

/-- R120 and R121: the loads write V[x] and nothing else but PC. -/
def Obligations.LoadsWriteTheRegister : Prop :=
  ∀ (x y : Reg) (nn : Byte),
    decodeWord (wordXnn 0x6 x nn) = .ldImm x nn ∧ decodeWord (wordXyn 0x8 x y 0x0) = .ldReg x y ∧
    ∀ s : State,
      (∃ t, exec (.ldImm x nn) s = .next t ∧ t.pc = s.pc + 2 ∧ getV t x = nn ∧
        OtherRegsKept [x] s t ∧ OnlyChanges [.v, .pc] s t) ∧
      (∃ t, exec (.ldReg x y) s = .next t ∧ t.pc = s.pc + 2 ∧ getV t x = getV s y ∧
        OtherRegsKept [x] s t ∧ OnlyChanges [.v, .pc] s t)

/-- R122: 7xnn adds with 8-bit wraparound and writes no flag; VF changes only as the destination. -/
def Obligations.AddImmediateWrapsWithoutFlag : Prop :=
  ∀ (x : Reg) (nn : Byte),
    decodeWord (wordXnn 0x7 x nn) = .addImm x nn ∧
    ∀ s : State, ∃ t, exec (.addImm x nn) s = .next t ∧ t.pc = s.pc + 2 ∧
      (getV t x).toNat = ((getV s x).toNat + nn.toNat) % 256 ∧ OtherRegsKept [x] s t ∧ OnlyChanges [.v, .pc] s t

/-- R123: 8xy4 writes the sum mod 256 and then the carry in VF, 1 iff the unsigned sum exceeds 255; with x = F the carry
is what VF holds.
Derived: That the carry is what VF holds at x = F is the write order of R132, the spec's D9 (log entry 1). -/
def Obligations.AddRegisterSetsTheCarry : Prop :=
  ∀ x y : Reg,
    decodeWord (wordXyn 0x8 x y 0x4) = .addReg x y ∧
    ∀ s : State, ∃ t, exec (.addReg x y) s = .next t ∧ t.pc = s.pc + 2 ∧
      (x ≠ vf → (getV t x).toNat = ((getV s x).toNat + (getV s y).toNat) % 256) ∧
      getV t vf = (if (getV s x).toNat + (getV s y).toNat > 255 then 1 else 0) ∧
      OtherRegsKept [x, vf] s t ∧ OnlyChanges [.v, .pc] s t

/-- R124, R125, R126: OR, AND and XOR bit by bit, with VF left alone unless it is the destination. -/
def Obligations.BitwiseCombinesBitByBit : Prop :=
  ∀ x y : Reg,
    decodeWord (wordXyn 0x8 x y 0x1) = .orReg x y ∧ decodeWord (wordXyn 0x8 x y 0x2) = .andReg x y ∧
    decodeWord (wordXyn 0x8 x y 0x3) = .xorReg x y ∧
    ∀ s : State,
      (∃ t, exec (.orReg x y) s = .next t ∧ t.pc = s.pc + 2 ∧
        (∀ k, (getV t x).getLsbD k = ((getV s x).getLsbD k || (getV s y).getLsbD k)) ∧
        OtherRegsKept [x] s t ∧ OnlyChanges [.v, .pc] s t) ∧
      (∃ t, exec (.andReg x y) s = .next t ∧ t.pc = s.pc + 2 ∧
        (∀ k, (getV t x).getLsbD k = ((getV s x).getLsbD k && (getV s y).getLsbD k)) ∧
        OtherRegsKept [x] s t ∧ OnlyChanges [.v, .pc] s t) ∧
      (∃ t, exec (.xorReg x y) s = .next t ∧ t.pc = s.pc + 2 ∧
        (∀ k, (getV t x).getLsbD k = ((getV s x).getLsbD k ^^ (getV s y).getLsbD k)) ∧
        OtherRegsKept [x] s t ∧ OnlyChanges [.v, .pc] s t)

/-- R127 and R128: the difference with 8-bit wraparound and VF = 1 iff the minuend is strictly greater; with x = F the
difference is what VF holds.
Derived: That the difference is what VF holds at x = F is the write order of R132, the spec's D9 (log entry 1). -/
def Obligations.SubtractsSetTheGreaterFlag : Prop :=
  ∀ x y : Reg,
    decodeWord (wordXyn 0x8 x y 0x5) = .sub x y ∧ decodeWord (wordXyn 0x8 x y 0x7) = .subn x y ∧
    ∀ s : State,
      (∃ t, exec (.sub x y) s = .next t ∧ t.pc = s.pc + 2 ∧
        (getV t x).toNat = ((getV s x).toNat + 256 - (getV s y).toNat) % 256 ∧
        (x ≠ vf → getV t vf = if (getV s x).toNat > (getV s y).toNat then 1 else 0) ∧
        OtherRegsKept [x, vf] s t ∧ OnlyChanges [.v, .pc] s t) ∧
      (∃ t, exec (.subn x y) s = .next t ∧ t.pc = s.pc + 2 ∧
        (getV t x).toNat = ((getV s y).toNat + 256 - (getV s x).toNat) % 256 ∧
        (x ≠ vf → getV t vf = if (getV s y).toNat > (getV s x).toNat then 1 else 0) ∧
        OtherRegsKept [x, vf] s t ∧ OnlyChanges [.v, .pc] s t)

/-- R129 and R130: the shifts of Vx alone, VF the bit shifted out, as 0 or 1; with x = F the flag is written and then
shifted, so VF holds 0 after 8xy6 and 0 or 2 after 8xyE. Vy plays no part.
Derived: The write order at x = F is the spec's D9, the 0 or 1 its D11 (log entry 1). -/
def Obligations.ShiftsPutTheLostBitInVf : Prop :=
  ∀ x y : Reg,
    decodeWord (wordXyn 0x8 x y 0x6) = .shr x y ∧ decodeWord (wordXyn 0x8 x y 0xE) = .shl x y ∧
    ∀ s : State,
      (∃ t, exec (.shr x y) s = .next t ∧ t.pc = s.pc + 2 ∧
        (x ≠ vf → (getV t x).toNat = (getV s x).toNat / 2 ∧ (getV t vf).toNat = (getV s x).toNat % 2) ∧
        (x = vf → getV t vf = 0) ∧ OtherRegsKept [x, vf] s t ∧ OnlyChanges [.v, .pc] s t) ∧
      (∃ t, exec (.shl x y) s = .next t ∧ t.pc = s.pc + 2 ∧
        (x ≠ vf → (getV t x).toNat = (getV s x).toNat * 2 % 256 ∧ (getV t vf).toNat = (getV s x).toNat / 128) ∧
        (x = vf → (getV t vf).toNat = (getV s x).toNat / 128 * 2) ∧
        OtherRegsKept [x, vf] s t ∧ OnlyChanges [.v, .pc] s t)

/-- R132: what VF holds when it is the destination of a flagged operation.
Derived: The order is the spec's D9 and D10 (log entry 1). -/
def Obligations.WriteOrderWhenVfIsTheDestination : Prop :=
  ∀ (y : Reg) (s : State),
    (∃ t, exec (.addReg vf y) s = .next t ∧
      getV t vf = if (getV s vf).toNat + (getV s y).toNat > 255 then 1 else 0) ∧
    (∃ t, exec (.sub vf y) s = .next t ∧ getV t vf = getV s vf - getV s y) ∧
    (∃ t, exec (.subn vf y) s = .next t ∧ getV t vf = getV s y - getV s vf) ∧
    (∃ t, exec (.shr vf y) s = .next t ∧ getV t vf = 0) ∧
    (∃ t, exec (.shl vf y) s = .next t ∧ getV t vf = if (getV s vf).getLsbD 7 then 2 else 0)

/-! ## Index register and random (42_index_and_random.md) -/

/-- R140 and R141: I takes nnn; I takes I + V[x] mod 65536 and VF is 1 iff the new I exceeds 0x0FFF.
Derived: The flag of an I already past 0x0FFF and of a wrap is the spec's D12 (log entry 1). -/
def Obligations.IndexLoadsAndAdds : Prop :=
  (∀ nnn : Addr,
    decodeWord (wordNnn 0xA nnn) = .ldI nnn ∧
    ∀ s : State, ∃ t, exec (.ldI nnn) s = .next t ∧ t.pc = s.pc + 2 ∧ t.index.toNat = nnn.toNat ∧
      OnlyChanges [.index, .pc] s t) ∧
  (∀ x : Reg,
    decodeWord (wordXnn 0xF x 0x1E) = .addI x ∧
    ∀ s : State, ∃ t, exec (.addI x) s = .next t ∧ t.pc = s.pc + 2 ∧
      t.index.toNat = (s.index.toNat + (getV s x).toNat) % 65536 ∧
      getV t vf = (if t.index.toNat > 0x0FFF then 1 else 0) ∧
      OtherRegsKept [vf] s t ∧ OnlyChanges [.v, .index, .pc] s t)

/-- R142: V[x] is the drawn byte masked with nn. The byte is the one on the RAND port, for every byte, and with none there
a free value of the model (log entry 5); each draw takes a fresh one.
Derived: That the draw is a port with a free value behind it, and counted, is the model's choice (log entry 5). -/
def Obligations.RandomMasksTheDrawnByte : Prop :=
  ∀ (x : Reg) (nn : Byte) (s : State), ∃ t, exec (.rnd x nn) s = .next t ∧ t.pc = s.pc + 2 ∧
    (∀ r, s.rand = some r → getV t x = r &&& nn) ∧
    (s.rand = none → getV t x = Config.randByte s.draws &&& nn) ∧
    t.rand = none ∧ t.draws = s.draws + 1 ∧ OtherRegsKept [x] s t ∧ OnlyChanges [.v, .pc, .rand] s t

/-! ## Sprite draw (43_draw.md) -/

/-- R150 to R154: where the rows can be read, every pixel is XORed with the sprite bit that falls on it, nothing wraps, VF
is 1 iff a set bit fell on a set pixel, and nothing else changes.
Derived: Bit order, captured coordinates and clipped pixels are the spec's D13, D10 and D36 (log entry 1). -/
def Obligations.DrawXorsTheSpriteAndReportsCollision : Prop :=
  ∀ (x y : Reg) (n : Nibble) (s : State), n = 0 ∨ s.index.toNat + n.toNat ≤ 0x0FFF →
    ∃ t, exec (.drw x y n) s = .next t ∧ t.pc = s.pc + 2 ∧
      (∀ row col, fbGet t row col =
        (fbGet s row col ^^ spriteBit s ((getV s x).toNat % 64) ((getV s y).toNat % 32) n.toNat row.val col.val)) ∧
      (getV t vf = 0 ∨ getV t vf = 1) ∧
      (getV t vf = 1 ↔ ∃ row col, fbGet s row col = true ∧
        spriteBit s ((getV s x).toNat % 64) ((getV s y).toNat % 32) n.toNat row.val col.val = true) ∧
      OtherRegsKept [vf] s t ∧ OnlyChanges [.v, .fb, .pc] s t

/-- R155: with n ≥ 1 the draw faults iff I + n exceeds 0x0FFF, clipped rows counted, with the first row address whose window
fails, precisely.
Derived: Reading clipped rows is the spec's D14 (log entries 1 and 3). -/
def Obligations.DrawFaultsAtTheTopOfMemory : Prop :=
  ∀ (x y : Reg) (n : Nibble) (s : State), 1 ≤ n.toNat →
    (s.index.toNat + n.toNat > 0x0FFF →
      ∃ r, r < n.toNat ∧ s.index.toNat + r + 1 > 0x0FFF ∧ (∀ r', r' < r → s.index.toNat + r' + 1 ≤ 0x0FFF) ∧
        exec (.drw x y n) s = .next (faulted s (.drw x y n) (.memoryOutOfRange (s.index.toNat + r)))) ∧
    (s.index.toNat + n.toNat ≤ 0x0FFF → ∃ t, exec (.drw x y n) s = .next t ∧ t.fault = s.fault)

/-- R156: a draw of height 0 draws nothing, reads nothing, resets VF and cannot fault, wherever I points.
Derived: The spec derives R156 (log entry 1). -/
def Obligations.DrawOfHeightZeroOnlyClearsVf : Prop :=
  ∀ (x y : Reg) (s : State), ∃ t, exec (.drw x y 0) s = .next t ∧ t.pc = s.pc + 2 ∧ getV t vf = 0 ∧
    OtherRegsKept [vf] s t ∧ OnlyChanges [.v, .pc] s t

/-! ## Timers, keys, BCD (44_timers_keys_bcd.md) -/

/-- R160 and R161: the timer writes. -/
def Obligations.TimerWritesCopyTheRegister : Prop :=
  ∀ x : Reg,
    decodeWord (wordXnn 0xF x 0x15) = .ldDt x ∧ decodeWord (wordXnn 0xF x 0x18) = .ldSt x ∧
    ∀ s : State,
      (∃ t, exec (.ldDt x) s = .next t ∧ t.pc = s.pc + 2 ∧ t.dt = getV s x ∧ OnlyChanges [.dt, .pc] s t) ∧
      (∃ t, exec (.ldSt x) s = .next t ∧ t.pc = s.pc + 2 ∧ t.st = getV s x ∧
        (soundActive t = true ↔ getV s x ≠ 0) ∧ OnlyChanges [.st, .pc] s t)

/-- R162: with a key pressed V[x] receives the number of a pressed key, whichever KEY_SELECT picks, the same for the same
pressed set; with none pressed only PC changes, back to this instruction.
Derived: Which of several keys is taken is a free value (log entry 6); level sensitivity is the spec's D33. -/
def Obligations.WaitForKeyTakesAPressedKeyOrRewinds : Prop :=
  (∀ (x : Reg) (s : State), (∃ k, getKey s k = true) →
    ∃ t k, exec (.ldKey x) s = .next t ∧ t.pc = s.pc + 2 ∧ getKey s k = true ∧ (getV t x).toNat = k.val ∧
      OtherRegsKept [x] s t ∧ OnlyChanges [.v, .pc] s t) ∧
  (∀ (x : Reg) (s : State), (∀ k, getKey s k = false) →
    ∃ t, exec (.ldKey x) s = .next t ∧ t.pc = s.pc ∧ OnlyChanges [] s t) ∧
  (∀ (x : Reg) (s s' t t' : State), (∃ k, getKey s k = true) → (∀ k, getKey s k = getKey s' k) →
    exec (.ldKey x) s = .next t → exec (.ldKey x) s' = .next t' → getV t x = getV t' x)

/-- R163: the three decimal digits at I, I + 1, I + 2, and no other byte; a store past 0x0FFF faults at the first address
that fails and writes nothing.
Derived: The precise fault is the spec's D27 (log entries 1 and 3). -/
def Obligations.BcdStoresThreeDigitsOrFaults : Prop :=
  ∀ x : Reg,
    decodeWord (wordXnn 0xF x 0x33) = .ldBcd x ∧
    ∀ s : State,
      (s.index.toNat + 2 ≤ 0x0FFF →
        ∃ t, exec (.ldBcd x) s = .next t ∧ t.pc = s.pc + 2 ∧
          (memGet t.mem s.index.toNat).toNat = (getV s x).toNat / 100 ∧
          (memGet t.mem (s.index.toNat + 1)).toNat = (getV s x).toNat / 10 % 10 ∧
          (memGet t.mem (s.index.toNat + 2)).toNat = (getV s x).toNat % 10 ∧
          (∀ a, a < s.index.toNat ∨ s.index.toNat + 3 ≤ a → memGet t.mem a = memGet s.mem a) ∧
          OnlyChanges [.mem, .pc] s t) ∧
      (0x0FFF < s.index.toNat + 2 →
        exec (.ldBcd x) s = .next (faulted s (.ldBcd x) (.memoryOutOfRange (max s.index.toNat 0x1000))))

/-! ## Undescribed and unmapped forms (45_undescribed_and_unmapped.md) -/

/-- R173 and R174 under standard: the key skips, for a register that names a key.
Derived: Conventional semantics, the spec's general knowledge; the parameter in State is the model's (log entries 1
and 2). -/
def Obligations.KeySkipsTestTheNamedKey : Prop :=
  ∀ (x : Reg) (s : State) (k : Key), s.undescribedOps = .standard → (getV s x).toNat = k.val →
    (∃ t, exec (.skp x) s = .next t ∧ OnlyChanges [.pc] s t ∧
      t.pc = if getKey s k = true then s.pc + 4 else s.pc + 2) ∧
    (∃ t, exec (.sknp x) s = .next t ∧ OnlyChanges [.pc] s t ∧
      t.pc = if getKey s k = true then s.pc + 2 else s.pc + 4)

/-- R173 and R174 under standard: a register above 15 raises KeyIndexOutOfRange, precisely (60_exceptions.md R202).
Derived: The fault is the spec's D29 (log entries 1, 2 and 3). -/
def Obligations.KeySkipsFaultAboveFifteen : Prop :=
  ∀ (x : Reg) (s : State), s.undescribedOps = .standard → 15 < (getV s x).toNat →
    exec (.skp x) s = .next (faulted s (.skp x) (.keyIndexOutOfRange (getV s x).toNat)) ∧
    exec (.sknp x) s = .next (faulted s (.sknp x) (.keyIndexOutOfRange (getV s x).toNat))

/-- R175, R176, R177 under standard: the delay timer to V[x]; I at the glyph of V[x]'s low nibble.
Derived: Conventional semantics; the low-nibble mask is the spec's D34; the parameter in State is the model's (log
entries 1 and 2). -/
def Obligations.TimerReadAndGlyphPointers : Prop :=
  ∀ (x : Reg) (s : State), s.undescribedOps = .standard →
    (∃ t, exec (.ldFromDt x) s = .next t ∧ t.pc = s.pc + 2 ∧ getV t x = s.dt ∧
      OtherRegsKept [x] s t ∧ OnlyChanges [.v, .pc] s t) ∧
    (∃ t, exec (.ldFont x) s = .next t ∧ t.pc = s.pc + 2 ∧
      t.index.toNat = 0x050 + 5 * ((getV s x).toNat % 16) ∧ OnlyChanges [.index, .pc] s t) ∧
    (∃ t, exec (.ldHiFont x) s = .next t ∧ t.pc = s.pc + 2 ∧
      t.index.toNat = 0x0A0 + 10 * ((getV s x).toNat % 16) ∧ OnlyChanges [.index, .pc] s t)

/-- R178 under standard: V0..Vx at I.., no other byte, I unchanged; or a precise fault at the first address past 0x0FFF.
Derived: Conventional semantics; I unchanged is the spec's D34 (log entries 1, 2 and 3). -/
def Obligations.RegisterStoreWritesFromIndex : Prop :=
  ∀ (x : Reg) (s : State), s.undescribedOps = .standard →
    (s.index.toNat + x.val ≤ 0x0FFF →
      ∃ t, exec (.storeRegs x) s = .next t ∧ t.pc = s.pc + 2 ∧
        (∀ r : Reg, r.val ≤ x.val → memGet t.mem (s.index.toNat + r.val) = getV s r) ∧
        (∀ a, a < s.index.toNat ∨ s.index.toNat + x.val < a → memGet t.mem a = memGet s.mem a) ∧
        OnlyChanges [.mem, .pc] s t) ∧
    (0x0FFF < s.index.toNat + x.val →
      exec (.storeRegs x) s = .next (faulted s (.storeRegs x) (.memoryOutOfRange (max s.index.toNat 0x1000))))

/-- R179 under standard: V0..Vx from I.., the other registers and I unchanged; or a precise fault at the first address whose
window passes 0x0FFF.
Derived: Conventional semantics; I unchanged is the spec's D34 (log entries 1, 2 and 3). -/
def Obligations.RegisterLoadReadsFromIndex : Prop :=
  ∀ (x : Reg) (s : State), s.undescribedOps = .standard →
    (s.index.toNat + x.val + 1 ≤ 0x0FFF →
      ∃ t, exec (.loadRegs x) s = .next t ∧ t.pc = s.pc + 2 ∧
        (∀ r : Reg, getV t r = if r.val ≤ x.val then memGet s.mem (s.index.toNat + r.val) else getV s r) ∧
        OnlyChanges [.v, .pc] s t) ∧
    (0x0FFF < s.index.toNat + x.val + 1 →
      exec (.loadRegs x) s = .next (faulted s (.loadRegs x) (.memoryOutOfRange (max s.index.toNat 0x0FFF))))

/-- R171, R180, R203: an undescribed form under refuse, and a SCHIP-only form under refuse or standard, commits nothing and
sets REFUSED with the word.
Derived: The spec's D2; a refusal as a next state is log entry 4. -/
def Obligations.RefusedFormsCommitNothing : Prop :=
  ∀ (i : Instr) (s : State),
    (s.undescribedOps = .refuse → (i.kind = .undescribed ∨ i.kind = .schip) → exec i s = .next (refusedAt s i)) ∧
    (s.undescribedOps = .standard → i.kind = .schip → exec i s = .next (refusedAt s i))

/-- R172, R181: under noop every undescribed form, SCHIP-only ones among them, only advances PC.
Derived: The spec's D2 (log entries 1 and 2). -/
def Obligations.NoopModeAdvancesOnly : Prop :=
  ∀ (i : Instr) (s : State), s.undescribedOps = .noop → (i.kind = .undescribed ∨ i.kind = .schip) →
    ∃ t, exec i s = .next t ∧ t.pc = s.pc + 2 ∧ OnlyChanges [.pc] s t

/-- A refusal is marked only by an undescribed or SCHIP-only form, and with nothing else changed (60_exceptions.md R203).
Derived: The spec's D2; a refusal as a next state is log entry 4. -/
def Obligations.RefusalsArePrecise : Prop :=
  ∀ (i : Instr) (s t : State), exec i s = .next t → t.refused ≠ s.refused →
    t = refusedAt s i ∧ (i.kind = .undescribed ∨ i.kind = .schip)

/-- R185: an unmapped word, every row of them, is a no-op: only PC advances; and word 0x0000 at 0x200 after reset leaves
PC at 0x202.
Derived: That step at State.reset is a Step rests on the empty queue there (log entry 12) and on FAULT and REFUSED
none (the spec's D19, log entry 11). -/
def Obligations.UnmappedWordsAreNoOps : Prop :=
  (∀ (i : Instr) (s : State), i.kind = .unmapped →
    ∃ t, exec i s = .next t ∧ t.pc = s.pc + 2 ∧ OnlyChanges [.pc] s t) ∧
  step State.reset = .next { State.reset with pc := 0x202 }

/-- R187: the UNMAPPED pulse of the next Step, with {pc_inst, word}, exactly when that Step executes an unmapped word.
Derived: The pulse is the spec's D26; that it is a function of the state is log entry 16; that an undescribed word
under noop (R172) gives none is the model's choice (log entry 20). -/
def Obligations.UnmappedPulseNamesTheWord : Prop :=
  ∀ (s : State) (p w : Word), unmappedPulse s = some (p, w) ↔
    Good s ∧ p = s.pc ∧ fetch s = .ok w ∧ (decodeWord w).kind = .unmapped

/-- R233: the launch state of a ROM of at most 3584 bytes, under any value of UNDESCRIBED_OPS, with its named premises.
Derived: The launch is the spec's D35 and D37; the canonical form and the parameter in State are the model's (log
entries 2, 9 and 13). -/
def Obligations.LaunchStateMeetsItsPremises : Prop :=
  ∀ (u : UndescribedOps) (rom : List Byte), rom.length ≤ 3584 →
    Good (launch u rom) ∧ (launch u rom).sp = 0 ∧ (∀ row col, fbGet (launch u rom) row col = false) ∧
    (∀ k, getKey (launch u rom) k = false) ∧ (launch u rom).dt = 0 ∧ (launch u rom).st = 0 ∧ (launch u rom).pc = 0x200 ∧
    (∀ j (h : j < rom.length), memGet (launch u rom).mem (0x200 + j) = rom[j]) ∧
    Memory.wf (launch u rom).mem ∧ (launch u rom).undescribedOps = u
end

