-- ==== Sys2Proof/Laws/Encoding.lean ====
section
/-! SUPPORT. The fields and the words of Decode.lean as numbers, so that a claim about an encoding is arithmetic. -/

namespace Sys2Proof

theorem toNat_append_eq {n m : Nat} (x : BitVec n) (y : BitVec m) :
    (x ++ y).toNat = x.toNat * 2 ^ m + y.toNat := by
  rw [BitVec.toNat_append, ← Nat.shiftLeft_add_eq_or_of_lt y.isLt, Nat.shiftLeft_eq]

theorem wordOfBytes_toNat (hi lo : Byte) : (wordOfBytes hi lo).toNat = hi.toNat * 256 + lo.toNat :=
  toNat_append_eq hi lo

theorem wordNnn_toNat (c : Nibble) (nnn : Addr) : (wordNnn c nnn).toNat = c.toNat * 4096 + nnn.toNat :=
  toNat_append_eq c nnn

theorem regBits_toNat (x : Reg) : (BitVec.ofNat 4 x.val).toNat = x.val := by
  rw [BitVec.toNat_ofNat]
  omega

theorem wordXnn_toNat (c : Nibble) (x : Reg) (nn : Byte) :
    (wordXnn c x nn).toNat = c.toNat * 4096 + x.val * 256 + nn.toNat := by
  have h := toNat_append_eq (c ++ BitVec.ofNat 4 x.val) nn
  rw [toNat_append_eq c (BitVec.ofNat 4 x.val), regBits_toNat] at h
  refine h.trans ?_
  omega

theorem wordXyn_toNat (c : Nibble) (x y : Reg) (n : Nibble) :
    (wordXyn c x y n).toNat = c.toNat * 4096 + x.val * 256 + y.val * 16 + n.toNat := by
  have h := toNat_append_eq (c ++ BitVec.ofNat 4 x.val ++ BitVec.ofNat 4 y.val) n
  rw [toNat_append_eq (c ++ BitVec.ofNat 4 x.val) (BitVec.ofNat 4 y.val),
    toNat_append_eq c (BitVec.ofNat 4 x.val), regBits_toNat, regBits_toNat] at h
  refine h.trans ?_
  omega

theorem extract_toNat (w : Word) (lo len : Nat) : (w.extractLsb' lo len).toNat = w.toNat / 2 ^ lo % 2 ^ len := by
  rw [BitVec.extractLsb'_toNat, Nat.shiftRight_eq_div_pow]

theorem fieldClass_toNat (w : Word) : (fieldClass w).toNat = w.toNat / 4096 := by
  have := w.isLt
  rw [fieldClass, extract_toNat]
  omega

theorem fieldX_val (w : Word) : (fieldX w).val = w.toNat / 256 % 16 := extract_toNat w 8 4

theorem fieldY_val (w : Word) : (fieldY w).val = w.toNat / 16 % 16 := extract_toNat w 4 4

theorem fieldN_toNat (w : Word) : (fieldN w).toNat = w.toNat % 16 := by
  rw [fieldN, extract_toNat]
  omega

theorem fieldNn_toNat (w : Word) : (fieldNn w).toNat = w.toNat % 256 := by
  rw [fieldNn, extract_toNat]
  omega

theorem fieldNnn_toNat (w : Word) : (fieldNnn w).toNat = w.toNat % 4096 := by
  rw [fieldNnn, extract_toNat]
  omega

theorem highByte_toNat (w : Word) : (highByte w).toNat = w.toNat / 256 := by
  have := w.isLt
  rw [highByte, extract_toNat]
  omega

theorem lowByte_toNat (w : Word) : (lowByte w).toNat = w.toNat % 256 := by
  rw [lowByte, extract_toNat]
  omega

@[simp] theorem highByte_wordOfBytes (hi lo : Byte) : highByte (wordOfBytes hi lo) = hi := by
  apply BitVec.eq_of_toNat_eq
  rw [highByte_toNat, wordOfBytes_toNat]
  omega

@[simp] theorem lowByte_wordOfBytes (hi lo : Byte) : lowByte (wordOfBytes hi lo) = lo := by
  apply BitVec.eq_of_toNat_eq
  rw [lowByte_toNat, wordOfBytes_toNat]
  omega

@[simp] theorem wordOfBytes_bytes (w : Word) : wordOfBytes (highByte w) (lowByte w) = w := by
  apply BitVec.eq_of_toNat_eq
  rw [wordOfBytes_toNat, highByte_toNat, lowByte_toNat]
  omega

/-! ## The fields of a built word -/

@[simp] theorem fieldClass_wordXyn (c : Nibble) (x y : Reg) (n : Nibble) : fieldClass (wordXyn c x y n) = c := by
  apply BitVec.eq_of_toNat_eq
  rw [fieldClass_toNat, wordXyn_toNat]
  omega

@[simp] theorem fieldX_wordXyn (c : Nibble) (x y : Reg) (n : Nibble) : fieldX (wordXyn c x y n) = x := by
  apply Fin.ext
  rw [fieldX_val, wordXyn_toNat]
  omega

@[simp] theorem fieldY_wordXyn (c : Nibble) (x y : Reg) (n : Nibble) : fieldY (wordXyn c x y n) = y := by
  apply Fin.ext
  rw [fieldY_val, wordXyn_toNat]
  omega

@[simp] theorem fieldN_wordXyn (c : Nibble) (x y : Reg) (n : Nibble) : fieldN (wordXyn c x y n) = n := by
  apply BitVec.eq_of_toNat_eq
  rw [fieldN_toNat, wordXyn_toNat]
  omega

@[simp] theorem fieldClass_wordXnn (c : Nibble) (x : Reg) (nn : Byte) : fieldClass (wordXnn c x nn) = c := by
  apply BitVec.eq_of_toNat_eq
  rw [fieldClass_toNat, wordXnn_toNat]
  omega

@[simp] theorem fieldX_wordXnn (c : Nibble) (x : Reg) (nn : Byte) : fieldX (wordXnn c x nn) = x := by
  apply Fin.ext
  rw [fieldX_val, wordXnn_toNat]
  omega

@[simp] theorem fieldNn_wordXnn (c : Nibble) (x : Reg) (nn : Byte) : fieldNn (wordXnn c x nn) = nn := by
  apply BitVec.eq_of_toNat_eq
  rw [fieldNn_toNat, wordXnn_toNat]
  omega

@[simp] theorem fieldClass_wordNnn (c : Nibble) (nnn : Addr) : fieldClass (wordNnn c nnn) = c := by
  apply BitVec.eq_of_toNat_eq
  rw [fieldClass_toNat, wordNnn_toNat]
  omega

@[simp] theorem fieldNnn_wordNnn (c : Nibble) (nnn : Addr) : fieldNnn (wordNnn c nnn) = nnn := by
  apply BitVec.eq_of_toNat_eq
  rw [fieldNnn_toNat, wordNnn_toNat]
  omega

end Sys2Proof
end

