-- ==== Sys2Proof/Laws/State.lean ====
section
/-! SUPPORT. One lemma per field per update, so that no later proof unfolds a record update; and what a register reads
after each update. -/

namespace Sys2Proof.Machine

@[simp] theorem setV_v (s : State) (r : Reg) (b : Byte) : (setV s r b).v = s.v.set r.val b := rfl
@[simp] theorem setV_pc (s : State) (r : Reg) (b : Byte) : (setV s r b).pc = s.pc := rfl
@[simp] theorem setV_index (s : State) (r : Reg) (b : Byte) : (setV s r b).index = s.index := rfl
@[simp] theorem setV_dt (s : State) (r : Reg) (b : Byte) : (setV s r b).dt = s.dt := rfl
@[simp] theorem setV_st (s : State) (r : Reg) (b : Byte) : (setV s r b).st = s.st := rfl
@[simp] theorem setV_stack (s : State) (r : Reg) (b : Byte) : (setV s r b).stack = s.stack := rfl
@[simp] theorem setV_sp (s : State) (r : Reg) (b : Byte) : (setV s r b).sp = s.sp := rfl
@[simp] theorem setV_mem (s : State) (r : Reg) (b : Byte) : (setV s r b).mem = s.mem := rfl
@[simp] theorem setV_fb (s : State) (r : Reg) (b : Byte) : (setV s r b).fb = s.fb := rfl
@[simp] theorem setV_keys (s : State) (r : Reg) (b : Byte) : (setV s r b).keys = s.keys := rfl
@[simp] theorem setV_fault (s : State) (r : Reg) (b : Byte) : (setV s r b).fault = s.fault := rfl
@[simp] theorem setV_refused (s : State) (r : Reg) (b : Byte) : (setV s r b).refused = s.refused := rfl
@[simp] theorem setV_undescribedOps (s : State) (r : Reg) (b : Byte) : (setV s r b).undescribedOps = s.undescribedOps := rfl
@[simp] theorem setV_hostQueue (s : State) (r : Reg) (b : Byte) : (setV s r b).hostQueue = s.hostQueue := rfl
@[simp] theorem setV_rand (s : State) (r : Reg) (b : Byte) : (setV s r b).rand = s.rand := rfl
@[simp] theorem setV_draws (s : State) (r : Reg) (b : Byte) : (setV s r b).draws = s.draws := rfl

@[simp] theorem setPc_v (s : State) (a : Word) : (setPc s a).v = s.v := rfl
@[simp] theorem setPc_pc (s : State) (a : Word) : (setPc s a).pc = a := rfl
@[simp] theorem setPc_index (s : State) (a : Word) : (setPc s a).index = s.index := rfl
@[simp] theorem setPc_dt (s : State) (a : Word) : (setPc s a).dt = s.dt := rfl
@[simp] theorem setPc_st (s : State) (a : Word) : (setPc s a).st = s.st := rfl
@[simp] theorem setPc_stack (s : State) (a : Word) : (setPc s a).stack = s.stack := rfl
@[simp] theorem setPc_sp (s : State) (a : Word) : (setPc s a).sp = s.sp := rfl
@[simp] theorem setPc_mem (s : State) (a : Word) : (setPc s a).mem = s.mem := rfl
@[simp] theorem setPc_fb (s : State) (a : Word) : (setPc s a).fb = s.fb := rfl
@[simp] theorem setPc_keys (s : State) (a : Word) : (setPc s a).keys = s.keys := rfl
@[simp] theorem setPc_fault (s : State) (a : Word) : (setPc s a).fault = s.fault := rfl
@[simp] theorem setPc_refused (s : State) (a : Word) : (setPc s a).refused = s.refused := rfl
@[simp] theorem setPc_undescribedOps (s : State) (a : Word) : (setPc s a).undescribedOps = s.undescribedOps := rfl
@[simp] theorem setPc_hostQueue (s : State) (a : Word) : (setPc s a).hostQueue = s.hostQueue := rfl
@[simp] theorem setPc_rand (s : State) (a : Word) : (setPc s a).rand = s.rand := rfl
@[simp] theorem setPc_draws (s : State) (a : Word) : (setPc s a).draws = s.draws := rfl

@[simp] theorem setIndex_v (s : State) (a : Word) : (setIndex s a).v = s.v := rfl
@[simp] theorem setIndex_pc (s : State) (a : Word) : (setIndex s a).pc = s.pc := rfl
@[simp] theorem setIndex_index (s : State) (a : Word) : (setIndex s a).index = a := rfl
@[simp] theorem setIndex_dt (s : State) (a : Word) : (setIndex s a).dt = s.dt := rfl
@[simp] theorem setIndex_st (s : State) (a : Word) : (setIndex s a).st = s.st := rfl
@[simp] theorem setIndex_stack (s : State) (a : Word) : (setIndex s a).stack = s.stack := rfl
@[simp] theorem setIndex_sp (s : State) (a : Word) : (setIndex s a).sp = s.sp := rfl
@[simp] theorem setIndex_mem (s : State) (a : Word) : (setIndex s a).mem = s.mem := rfl
@[simp] theorem setIndex_fb (s : State) (a : Word) : (setIndex s a).fb = s.fb := rfl
@[simp] theorem setIndex_keys (s : State) (a : Word) : (setIndex s a).keys = s.keys := rfl
@[simp] theorem setIndex_fault (s : State) (a : Word) : (setIndex s a).fault = s.fault := rfl
@[simp] theorem setIndex_refused (s : State) (a : Word) : (setIndex s a).refused = s.refused := rfl
@[simp] theorem setIndex_undescribedOps (s : State) (a : Word) : (setIndex s a).undescribedOps = s.undescribedOps := rfl
@[simp] theorem setIndex_hostQueue (s : State) (a : Word) : (setIndex s a).hostQueue = s.hostQueue := rfl
@[simp] theorem setIndex_rand (s : State) (a : Word) : (setIndex s a).rand = s.rand := rfl
@[simp] theorem setIndex_draws (s : State) (a : Word) : (setIndex s a).draws = s.draws := rfl

@[simp] theorem setDt_v (s : State) (b : Byte) : (setDt s b).v = s.v := rfl
@[simp] theorem setDt_pc (s : State) (b : Byte) : (setDt s b).pc = s.pc := rfl
@[simp] theorem setDt_index (s : State) (b : Byte) : (setDt s b).index = s.index := rfl
@[simp] theorem setDt_dt (s : State) (b : Byte) : (setDt s b).dt = b := rfl
@[simp] theorem setDt_st (s : State) (b : Byte) : (setDt s b).st = s.st := rfl
@[simp] theorem setDt_stack (s : State) (b : Byte) : (setDt s b).stack = s.stack := rfl
@[simp] theorem setDt_sp (s : State) (b : Byte) : (setDt s b).sp = s.sp := rfl
@[simp] theorem setDt_mem (s : State) (b : Byte) : (setDt s b).mem = s.mem := rfl
@[simp] theorem setDt_fb (s : State) (b : Byte) : (setDt s b).fb = s.fb := rfl
@[simp] theorem setDt_keys (s : State) (b : Byte) : (setDt s b).keys = s.keys := rfl
@[simp] theorem setDt_fault (s : State) (b : Byte) : (setDt s b).fault = s.fault := rfl
@[simp] theorem setDt_refused (s : State) (b : Byte) : (setDt s b).refused = s.refused := rfl
@[simp] theorem setDt_undescribedOps (s : State) (b : Byte) : (setDt s b).undescribedOps = s.undescribedOps := rfl
@[simp] theorem setDt_hostQueue (s : State) (b : Byte) : (setDt s b).hostQueue = s.hostQueue := rfl
@[simp] theorem setDt_rand (s : State) (b : Byte) : (setDt s b).rand = s.rand := rfl
@[simp] theorem setDt_draws (s : State) (b : Byte) : (setDt s b).draws = s.draws := rfl

@[simp] theorem setSt_v (s : State) (b : Byte) : (setSt s b).v = s.v := rfl
@[simp] theorem setSt_pc (s : State) (b : Byte) : (setSt s b).pc = s.pc := rfl
@[simp] theorem setSt_index (s : State) (b : Byte) : (setSt s b).index = s.index := rfl
@[simp] theorem setSt_dt (s : State) (b : Byte) : (setSt s b).dt = s.dt := rfl
@[simp] theorem setSt_st (s : State) (b : Byte) : (setSt s b).st = b := rfl
@[simp] theorem setSt_stack (s : State) (b : Byte) : (setSt s b).stack = s.stack := rfl
@[simp] theorem setSt_sp (s : State) (b : Byte) : (setSt s b).sp = s.sp := rfl
@[simp] theorem setSt_mem (s : State) (b : Byte) : (setSt s b).mem = s.mem := rfl
@[simp] theorem setSt_fb (s : State) (b : Byte) : (setSt s b).fb = s.fb := rfl
@[simp] theorem setSt_keys (s : State) (b : Byte) : (setSt s b).keys = s.keys := rfl
@[simp] theorem setSt_fault (s : State) (b : Byte) : (setSt s b).fault = s.fault := rfl
@[simp] theorem setSt_refused (s : State) (b : Byte) : (setSt s b).refused = s.refused := rfl
@[simp] theorem setSt_undescribedOps (s : State) (b : Byte) : (setSt s b).undescribedOps = s.undescribedOps := rfl
@[simp] theorem setSt_hostQueue (s : State) (b : Byte) : (setSt s b).hostQueue = s.hostQueue := rfl
@[simp] theorem setSt_rand (s : State) (b : Byte) : (setSt s b).rand = s.rand := rfl
@[simp] theorem setSt_draws (s : State) (b : Byte) : (setSt s b).draws = s.draws := rfl

@[simp] theorem setFb_v (s : State) (f : Framebuffer) : (setFb s f).v = s.v := rfl
@[simp] theorem setFb_pc (s : State) (f : Framebuffer) : (setFb s f).pc = s.pc := rfl
@[simp] theorem setFb_index (s : State) (f : Framebuffer) : (setFb s f).index = s.index := rfl
@[simp] theorem setFb_dt (s : State) (f : Framebuffer) : (setFb s f).dt = s.dt := rfl
@[simp] theorem setFb_st (s : State) (f : Framebuffer) : (setFb s f).st = s.st := rfl
@[simp] theorem setFb_stack (s : State) (f : Framebuffer) : (setFb s f).stack = s.stack := rfl
@[simp] theorem setFb_sp (s : State) (f : Framebuffer) : (setFb s f).sp = s.sp := rfl
@[simp] theorem setFb_mem (s : State) (f : Framebuffer) : (setFb s f).mem = s.mem := rfl
@[simp] theorem setFb_fb (s : State) (f : Framebuffer) : (setFb s f).fb = f := rfl
@[simp] theorem setFb_keys (s : State) (f : Framebuffer) : (setFb s f).keys = s.keys := rfl
@[simp] theorem setFb_fault (s : State) (f : Framebuffer) : (setFb s f).fault = s.fault := rfl
@[simp] theorem setFb_refused (s : State) (f : Framebuffer) : (setFb s f).refused = s.refused := rfl
@[simp] theorem setFb_undescribedOps (s : State) (f : Framebuffer) : (setFb s f).undescribedOps = s.undescribedOps := rfl
@[simp] theorem setFb_hostQueue (s : State) (f : Framebuffer) : (setFb s f).hostQueue = s.hostQueue := rfl
@[simp] theorem setFb_rand (s : State) (f : Framebuffer) : (setFb s f).rand = s.rand := rfl
@[simp] theorem setFb_draws (s : State) (f : Framebuffer) : (setFb s f).draws = s.draws := rfl

@[simp] theorem setMem_v (s : State) (m : List Host.Cell) : (setMem s m).v = s.v := rfl
@[simp] theorem setMem_pc (s : State) (m : List Host.Cell) : (setMem s m).pc = s.pc := rfl
@[simp] theorem setMem_index (s : State) (m : List Host.Cell) : (setMem s m).index = s.index := rfl
@[simp] theorem setMem_dt (s : State) (m : List Host.Cell) : (setMem s m).dt = s.dt := rfl
@[simp] theorem setMem_st (s : State) (m : List Host.Cell) : (setMem s m).st = s.st := rfl
@[simp] theorem setMem_stack (s : State) (m : List Host.Cell) : (setMem s m).stack = s.stack := rfl
@[simp] theorem setMem_sp (s : State) (m : List Host.Cell) : (setMem s m).sp = s.sp := rfl
@[simp] theorem setMem_mem (s : State) (m : List Host.Cell) : (setMem s m).mem = m := rfl
@[simp] theorem setMem_fb (s : State) (m : List Host.Cell) : (setMem s m).fb = s.fb := rfl
@[simp] theorem setMem_keys (s : State) (m : List Host.Cell) : (setMem s m).keys = s.keys := rfl
@[simp] theorem setMem_fault (s : State) (m : List Host.Cell) : (setMem s m).fault = s.fault := rfl
@[simp] theorem setMem_refused (s : State) (m : List Host.Cell) : (setMem s m).refused = s.refused := rfl
@[simp] theorem setMem_undescribedOps (s : State) (m : List Host.Cell) : (setMem s m).undescribedOps = s.undescribedOps := rfl
@[simp] theorem setMem_hostQueue (s : State) (m : List Host.Cell) : (setMem s m).hostQueue = s.hostQueue := rfl
@[simp] theorem setMem_rand (s : State) (m : List Host.Cell) : (setMem s m).rand = s.rand := rfl
@[simp] theorem setMem_draws (s : State) (m : List Host.Cell) : (setMem s m).draws = s.draws := rfl

@[simp] theorem advance_v (s : State) : (advance s).v = s.v := rfl
@[simp] theorem advance_pc (s : State) : (advance s).pc = s.pc + 2 := rfl
@[simp] theorem advance_index (s : State) : (advance s).index = s.index := rfl
@[simp] theorem advance_dt (s : State) : (advance s).dt = s.dt := rfl
@[simp] theorem advance_st (s : State) : (advance s).st = s.st := rfl
@[simp] theorem advance_stack (s : State) : (advance s).stack = s.stack := rfl
@[simp] theorem advance_sp (s : State) : (advance s).sp = s.sp := rfl
@[simp] theorem advance_mem (s : State) : (advance s).mem = s.mem := rfl
@[simp] theorem advance_fb (s : State) : (advance s).fb = s.fb := rfl
@[simp] theorem advance_keys (s : State) : (advance s).keys = s.keys := rfl
@[simp] theorem advance_fault (s : State) : (advance s).fault = s.fault := rfl
@[simp] theorem advance_refused (s : State) : (advance s).refused = s.refused := rfl
@[simp] theorem advance_undescribedOps (s : State) : (advance s).undescribedOps = s.undescribedOps := rfl
@[simp] theorem advance_hostQueue (s : State) : (advance s).hostQueue = s.hostQueue := rfl
@[simp] theorem advance_rand (s : State) : (advance s).rand = s.rand := rfl
@[simp] theorem advance_draws (s : State) : (advance s).draws = s.draws := rfl

@[simp] theorem afterDraw_v (s : State) : (afterDraw s).v = s.v := rfl
@[simp] theorem afterDraw_pc (s : State) : (afterDraw s).pc = s.pc := rfl
@[simp] theorem afterDraw_index (s : State) : (afterDraw s).index = s.index := rfl
@[simp] theorem afterDraw_dt (s : State) : (afterDraw s).dt = s.dt := rfl
@[simp] theorem afterDraw_st (s : State) : (afterDraw s).st = s.st := rfl
@[simp] theorem afterDraw_stack (s : State) : (afterDraw s).stack = s.stack := rfl
@[simp] theorem afterDraw_sp (s : State) : (afterDraw s).sp = s.sp := rfl
@[simp] theorem afterDraw_mem (s : State) : (afterDraw s).mem = s.mem := rfl
@[simp] theorem afterDraw_fb (s : State) : (afterDraw s).fb = s.fb := rfl
@[simp] theorem afterDraw_keys (s : State) : (afterDraw s).keys = s.keys := rfl
@[simp] theorem afterDraw_fault (s : State) : (afterDraw s).fault = s.fault := rfl
@[simp] theorem afterDraw_refused (s : State) : (afterDraw s).refused = s.refused := rfl
@[simp] theorem afterDraw_undescribedOps (s : State) : (afterDraw s).undescribedOps = s.undescribedOps := rfl
@[simp] theorem afterDraw_hostQueue (s : State) : (afterDraw s).hostQueue = s.hostQueue := rfl
@[simp] theorem afterDraw_rand (s : State) : (afterDraw s).rand = none := rfl
@[simp] theorem afterDraw_draws (s : State) : (afterDraw s).draws = s.draws + 1 := rfl

@[simp] theorem takeFault_v (s : State) (w : Option Word) (f : Fault) : (takeFault s w f).v = s.v := rfl
@[simp] theorem takeFault_pc (s : State) (w : Option Word) (f : Fault) : (takeFault s w f).pc = s.pc := rfl
@[simp] theorem takeFault_index (s : State) (w : Option Word) (f : Fault) : (takeFault s w f).index = s.index := rfl
@[simp] theorem takeFault_dt (s : State) (w : Option Word) (f : Fault) : (takeFault s w f).dt = s.dt := rfl
@[simp] theorem takeFault_st (s : State) (w : Option Word) (f : Fault) : (takeFault s w f).st = s.st := rfl
@[simp] theorem takeFault_stack (s : State) (w : Option Word) (f : Fault) : (takeFault s w f).stack = s.stack := rfl
@[simp] theorem takeFault_sp (s : State) (w : Option Word) (f : Fault) : (takeFault s w f).sp = s.sp := rfl
@[simp] theorem takeFault_mem (s : State) (w : Option Word) (f : Fault) : (takeFault s w f).mem = s.mem := rfl
@[simp] theorem takeFault_fb (s : State) (w : Option Word) (f : Fault) : (takeFault s w f).fb = s.fb := rfl
@[simp] theorem takeFault_keys (s : State) (w : Option Word) (f : Fault) : (takeFault s w f).keys = s.keys := rfl
@[simp] theorem takeFault_fault (s : State) (w : Option Word) (f : Fault) : (takeFault s w f).fault = some { cause := f, pcInst := s.pc, word := w } := rfl
@[simp] theorem takeFault_refused (s : State) (w : Option Word) (f : Fault) : (takeFault s w f).refused = s.refused := rfl
@[simp] theorem takeFault_undescribedOps (s : State) (w : Option Word) (f : Fault) : (takeFault s w f).undescribedOps = s.undescribedOps := rfl
@[simp] theorem takeFault_hostQueue (s : State) (w : Option Word) (f : Fault) : (takeFault s w f).hostQueue = s.hostQueue := rfl
@[simp] theorem takeFault_rand (s : State) (w : Option Word) (f : Fault) : (takeFault s w f).rand = s.rand := rfl
@[simp] theorem takeFault_draws (s : State) (w : Option Word) (f : Fault) : (takeFault s w f).draws = s.draws := rfl

@[simp] theorem takeRefusal_v (s : State) (w : Word) : (takeRefusal s w).v = s.v := rfl
@[simp] theorem takeRefusal_pc (s : State) (w : Word) : (takeRefusal s w).pc = s.pc := rfl
@[simp] theorem takeRefusal_index (s : State) (w : Word) : (takeRefusal s w).index = s.index := rfl
@[simp] theorem takeRefusal_dt (s : State) (w : Word) : (takeRefusal s w).dt = s.dt := rfl
@[simp] theorem takeRefusal_st (s : State) (w : Word) : (takeRefusal s w).st = s.st := rfl
@[simp] theorem takeRefusal_stack (s : State) (w : Word) : (takeRefusal s w).stack = s.stack := rfl
@[simp] theorem takeRefusal_sp (s : State) (w : Word) : (takeRefusal s w).sp = s.sp := rfl
@[simp] theorem takeRefusal_mem (s : State) (w : Word) : (takeRefusal s w).mem = s.mem := rfl
@[simp] theorem takeRefusal_fb (s : State) (w : Word) : (takeRefusal s w).fb = s.fb := rfl
@[simp] theorem takeRefusal_keys (s : State) (w : Word) : (takeRefusal s w).keys = s.keys := rfl
@[simp] theorem takeRefusal_fault (s : State) (w : Word) : (takeRefusal s w).fault = s.fault := rfl
@[simp] theorem takeRefusal_refused (s : State) (w : Word) : (takeRefusal s w).refused = some { reason := .undescribed, pcInst := s.pc, word := w } := rfl
@[simp] theorem takeRefusal_undescribedOps (s : State) (w : Word) : (takeRefusal s w).undescribedOps = s.undescribedOps := rfl
@[simp] theorem takeRefusal_hostQueue (s : State) (w : Word) : (takeRefusal s w).hostQueue = s.hostQueue := rfl
@[simp] theorem takeRefusal_rand (s : State) (w : Word) : (takeRefusal s w).rand = s.rand := rfl
@[simp] theorem takeRefusal_draws (s : State) (w : Word) : (takeRefusal s w).draws = s.draws := rfl

@[simp] theorem getKey_setV (s : State) (r : Reg) (b : Byte) (k : Key) : getKey (setV s r b) k = getKey s k := rfl
@[simp] theorem getV_setPc (s : State) (a : Word) (q : Reg) : getV (setPc s a) q = getV s q := rfl
@[simp] theorem getKey_setPc (s : State) (a : Word) (k : Key) : getKey (setPc s a) k = getKey s k := rfl
@[simp] theorem getV_setIndex (s : State) (a : Word) (q : Reg) : getV (setIndex s a) q = getV s q := rfl
@[simp] theorem getKey_setIndex (s : State) (a : Word) (k : Key) : getKey (setIndex s a) k = getKey s k := rfl
@[simp] theorem getV_setDt (s : State) (b : Byte) (q : Reg) : getV (setDt s b) q = getV s q := rfl
@[simp] theorem getKey_setDt (s : State) (b : Byte) (k : Key) : getKey (setDt s b) k = getKey s k := rfl
@[simp] theorem getV_setSt (s : State) (b : Byte) (q : Reg) : getV (setSt s b) q = getV s q := rfl
@[simp] theorem getKey_setSt (s : State) (b : Byte) (k : Key) : getKey (setSt s b) k = getKey s k := rfl
@[simp] theorem getV_setFb (s : State) (f : Framebuffer) (q : Reg) : getV (setFb s f) q = getV s q := rfl
@[simp] theorem getKey_setFb (s : State) (f : Framebuffer) (k : Key) : getKey (setFb s f) k = getKey s k := rfl
@[simp] theorem getV_setMem (s : State) (m : List Host.Cell) (q : Reg) : getV (setMem s m) q = getV s q := rfl
@[simp] theorem getKey_setMem (s : State) (m : List Host.Cell) (k : Key) : getKey (setMem s m) k = getKey s k := rfl
@[simp] theorem getV_advance (s : State) (q : Reg) : getV (advance s) q = getV s q := rfl
@[simp] theorem getKey_advance (s : State) (k : Key) : getKey (advance s) k = getKey s k := rfl
@[simp] theorem getV_afterDraw (s : State) (q : Reg) : getV (afterDraw s) q = getV s q := rfl
@[simp] theorem getKey_afterDraw (s : State) (k : Key) : getKey (afterDraw s) k = getKey s k := rfl
@[simp] theorem getV_takeFault (s : State) (w : Option Word) (f : Fault) (q : Reg) : getV (takeFault s w f) q = getV s q := rfl
@[simp] theorem getKey_takeFault (s : State) (w : Option Word) (f : Fault) (k : Key) : getKey (takeFault s w f) k = getKey s k := rfl
@[simp] theorem getV_takeRefusal (s : State) (w : Word) (q : Reg) : getV (takeRefusal s w) q = getV s q := rfl
@[simp] theorem getKey_takeRefusal (s : State) (w : Word) (k : Key) : getKey (takeRefusal s w) k = getKey s k := rfl

/-- A register write changes the register it names and no other (R21). -/
theorem getV_setV (s : State) (r q : Reg) (b : Byte) :
    getV (setV s r b) q = if q = r then b else getV s q := by
  unfold getV setV
  by_cases h : q = r
  · subst h; simp
  · have : r.val ≠ q.val := fun e => h (Fin.ext e.symm)
    simp [h, this]

@[simp] theorem getV_setV_same (s : State) (r : Reg) (b : Byte) : getV (setV s r b) r = b := by
  simp [getV_setV]

theorem getV_setV_ne (s : State) {r q : Reg} (b : Byte) (h : q ≠ r) : getV (setV s r b) q = getV s q := by
  simp [getV_setV, h]

end Sys2Proof.Machine
end

