-- ==== Sys2Proof/Laws/Memory.lean ====
section
/-! SUPPORT. What a byte of memory reads after a write, and that every memory operation keeps the canonical form. -/

namespace Sys2Proof.Machine

theorem memGet_filter_same (m : List Host.Cell) (a : Nat) :
    memGet (m.filter (fun c => c.1 != a)) a = unlistedByte a := by
  induction m with
  | nil => rfl
  | cons c rest ih =>
    by_cases h : c.1 = a
    · simp [h, ih]
    · simp [h, memGet, ih]

theorem memGet_filter_ne (m : List Host.Cell) {a d : Nat} (h : d ≠ a) :
    memGet (m.filter (fun c => c.1 != a)) d = memGet m d := by
  induction m with
  | nil => rfl
  | cons c rest ih =>
    by_cases hc : c.1 = a
    · have : c.1 ≠ d := by omega
      simp [hc, memGet, ih, Ne.symm h]
    · simp [hc, memGet, ih]

theorem memGet_insertCell_same (m : List Host.Cell) (a : Nat) (b : Byte) (h : ∀ c ∈ m, c.1 ≠ a) :
    memGet (insertCell m a b) a = b := by
  induction m with
  | nil => simp [insertCell, memGet]
  | cons c rest ih =>
    have hc : c.1 ≠ a := h c (by simp)
    by_cases hlt : a < c.1
    · simp [insertCell, hlt, memGet]
    · simp [insertCell, hlt, memGet, hc, ih (fun d hd => h d (by simp [hd]))]

theorem memGet_insertCell_ne (m : List Host.Cell) {a d : Nat} (b : Byte) (h : d ≠ a) :
    memGet (insertCell m a b) d = memGet m d := by
  induction m with
  | nil => simp [insertCell, memGet, Ne.symm h]
  | cons c rest ih =>
    by_cases hlt : a < c.1
    · simp [insertCell, hlt, memGet, Ne.symm h]
    · simp [insertCell, hlt, memGet, ih]

/-- A byte written reads back (20_memory.md R55, R64). -/
@[simp] theorem memGet_memSet_same (m : List Host.Cell) (a : Nat) (b : Byte) : memGet (memSet m a b) a = b := by
  unfold memSet
  split
  · next h => rw [memGet_filter_same, h]
  · exact memGet_insertCell_same _ _ _ (fun c hc => by simpa using (List.mem_filter.1 hc).2)

/-- A write leaves every other address alone (20_memory.md R55). -/
theorem memGet_memSet_ne (m : List Host.Cell) {a d : Nat} (b : Byte) (h : d ≠ a) :
    memGet (memSet m a b) d = memGet m d := by
  unfold memSet
  split
  · exact memGet_filter_ne m h
  · rw [memGet_insertCell_ne _ _ h, memGet_filter_ne m h]

theorem mem_insertCell (m : List Host.Cell) (a : Nat) (b : Byte) (c : Host.Cell) :
    c ∈ insertCell m a b ↔ c = (a, b) ∨ c ∈ m := by
  induction m with
  | nil => simp [insertCell]
  | cons d rest ih =>
    unfold insertCell
    split
    · simp
    · simp only [List.mem_cons, ih]
      tauto

theorem insertCell_pairwise (m : List Host.Cell) (a : Nat) (b : Byte)
    (hm : m.Pairwise (fun c d => c.1 < d.1)) (h : ∀ c ∈ m, c.1 ≠ a) :
    (insertCell m a b).Pairwise (fun c d => c.1 < d.1) := by
  induction m with
  | nil => simp [insertCell]
  | cons c rest ih =>
    have hc : c.1 ≠ a := h c (by simp)
    have hr := List.pairwise_cons.1 hm
    unfold insertCell
    split
    · next hlt =>
      refine List.pairwise_cons.2 ⟨fun d hd => ?_, hm⟩
      rcases List.mem_cons.1 hd with rfl | hd
      · exact hlt
      · exact Nat.lt_trans hlt (hr.1 d hd)
    · next hlt =>
      refine List.pairwise_cons.2 ⟨fun d hd => ?_, ih hr.2 (fun d hd => h d (by simp [hd]))⟩
      rcases (mem_insertCell _ _ _ _).1 hd with rfl | hd
      · show c.1 < a
        omega
      · exact hr.1 d hd

/-- A write to an existing address keeps the canonical form. -/
theorem memSet_wf {m : List Host.Cell} {a : Nat} (b : Byte) (hm : Memory.wf m) (ha : a < Config.memSize) :
    Memory.wf (memSet m a b) := by
  have hp := hm.1.filter (fun c => c.1 != a)
  unfold memSet
  split
  · exact ⟨hp, fun c hc => hm.2 c (List.mem_filter.1 hc).1⟩
  · next hb =>
    refine ⟨insertCell_pairwise _ _ _ hp (fun c hc => by simpa using (List.mem_filter.1 hc).2), fun c hc => ?_⟩
    rcases (mem_insertCell _ _ _ _).1 hc with rfl | hc
    · exact ⟨ha, hb⟩
    · exact hm.2 c (List.mem_filter.1 hc).1

/-- A run of writes that ends inside memory keeps the canonical form. -/
theorem memSetAll_wf (bytes : List Byte) {m : List Host.Cell} {a : Nat} (hm : Memory.wf m)
    (ha : a + bytes.length ≤ Config.memSize) : Memory.wf (memSetAll m a bytes) := by
  induction bytes generalizing m a with
  | nil => exact hm
  | cons b rest ih =>
    simp only [List.length_cons] at ha
    exact ih (memSet_wf b hm (by omega)) (by omega)

/-- A run of writes leaves every address outside it alone. -/
theorem memGet_memSetAll_outside (bytes : List Byte) (m : List Host.Cell) (a d : Nat)
    (h : d < a ∨ a + bytes.length ≤ d) : memGet (memSetAll m a bytes) d = memGet m d := by
  induction bytes generalizing m a with
  | nil => rfl
  | cons b rest ih =>
    simp only [List.length_cons] at h
    rw [memSetAll, ih _ _ (by omega), memGet_memSet_ne _ _ (by omega)]

/-- A run of writes puts each byte at its place. -/
theorem memGet_memSetAll_inside (bytes : List Byte) (m : List Host.Cell) (a j : Nat) (h : j < bytes.length) :
    memGet (memSetAll m a bytes) (a + j) = bytes[j] := by
  induction bytes generalizing m a j with
  | nil => simp at h
  | cons b rest ih =>
    cases j with
    | zero =>
      rw [memSetAll, memGet_memSetAll_outside _ _ _ _ (by omega)]
      simp
    | succ k =>
      have := ih (memSet m a b) (a + 1) k (by simpa using h)
      rw [memSetAll, show a + (k + 1) = a + 1 + k by omega, this]
      simp

/-- The memory after reset lists nothing, and is canonical. -/
theorem reset_mem_wf : Memory.wf State.reset.mem := by
  simp [Memory.wf, State.reset]

end Sys2Proof.Machine
end

