-- ==== Sys2Proof/Laws/Ops.lean ====
section
/-! SUPPORT. For each shared operation, once, everything it can do. -/

namespace Sys2Proof.Machine

/-- The window is read, or its first address is out of range (20_memory.md R53). -/
theorem readWindow_cases (s : State) (a : Nat) :
    (a + 1 ≤ 0x0FFF ∧ readWindow s a = .ok (wordOfBytes (memGet s.mem a) (memGet s.mem (a + 1)))) ∨
    (0x0FFF < a + 1 ∧ readWindow s a = .error (.memoryOutOfRange a)) := by
  unfold readWindow
  split
  · next h => exact .inl ⟨h, rfl⟩
  · next h => exact .inr ⟨by omega, rfl⟩

theorem readByte_ok {s : State} {a : Nat} (h : a + 1 ≤ 0x0FFF) : readByte s a = .ok (memGet s.mem a) := by
  simp [readByte, readWindow, h, highByte_wordOfBytes]

theorem readByte_error {s : State} {a : Nat} (h : 0x0FFF < a + 1) :
    readByte s a = .error (.memoryOutOfRange a) := by
  simp [readByte, readWindow, Nat.not_le.2 h]

theorem writeByte_ok {s : State} {a : Nat} (b : Byte) (h : a ≤ 0x0FFF) :
    writeByte s a b = .ok (setMem s (memSet s.mem a b)) := by
  simp [writeByte, h]

theorem writeByte_error {s : State} {a : Nat} (b : Byte) (h : 0x0FFF < a) :
    writeByte s a b = .error (.memoryOutOfRange a) := by
  simp [writeByte, Nat.not_le.2 h]

theorem setMem_mem_self (s : State) : setMem s s.mem = s := rfl

/-- A store of several bytes that fits is the run of their writes. -/
theorem writeBytes_ok (bytes : List Byte) (s : State) (a : Nat) (h : bytes = [] ∨ a + bytes.length ≤ 0x1000) :
    writeBytes s a bytes = .ok (setMem s (memSetAll s.mem a bytes)) := by
  induction bytes generalizing s a with
  | nil => rfl
  | cons b rest ih =>
    simp only [List.length_cons, reduceCtorEq, false_or] at h
    rw [writeBytes, writeByte_ok b (by omega)]
    simp only
    rw [ih _ _ (.inr (by omega))]
    rfl

/-- A store of several bytes that does not fit faults at its first address past 0x0FFF. -/
theorem writeBytes_error (bytes : List Byte) (s : State) (a : Nat) (hb : bytes ≠ [])
    (h : 0x1000 < a + bytes.length) :
    writeBytes s a bytes = .error (.memoryOutOfRange (max a 0x1000)) := by
  induction bytes generalizing s a with
  | nil => exact absurd rfl hb
  | cons b rest ih =>
    simp only [List.length_cons] at h
    rw [writeBytes]
    by_cases ha : a ≤ 0x0FFF
    · rw [writeByte_ok b ha]
      simp only
      have hr : rest ≠ [] := by
        rintro rfl
        simp at h
        omega
      rw [ih _ (a + 1) hr (by omega), show max (a + 1) 0x1000 = max a 0x1000 by omega]
    · rw [writeByte_error b (by omega), show max a 0x1000 = a by omega]

/-- What any store of several bytes can do. -/
theorem writeBytes_cases (bytes : List Byte) (s t : State) (a : Nat) (h : writeBytes s a bytes = .ok t) :
    t = setMem s (memSetAll s.mem a bytes) ∧ (bytes = [] ∨ a + bytes.length ≤ 0x1000) := by
  by_cases hb : bytes = [] ∨ a + bytes.length ≤ 0x1000
  · rw [writeBytes_ok _ _ _ hb] at h
    exact ⟨(Except.ok.inj h).symm, hb⟩
  · rw [not_or] at hb
    rw [writeBytes_error _ _ _ hb.1 (by omega)] at h
    cases h

/-- A push stores at SP and adds one to it, or the stack is full (20_memory.md R58). -/
theorem push_cases (s : State) (a : Word) :
    (∃ h : s.sp.val < 16, push s a = .ok { s with stack := s.stack.set s.sp.val a, sp := ⟨s.sp.val + 1, by omega⟩ }) ∨
    (s.sp.val = 16 ∧ push s a = .error (.stackOverflow 16)) := by
  unfold push
  split
  · next h => exact .inl ⟨h, rfl⟩
  · next h =>
    have : s.sp.val = 16 := by omega
    exact .inr ⟨this, by rw [this]⟩

/-- A pop takes the entry below SP, or the stack is empty (20_memory.md R59). -/
theorem pop_cases (s : State) :
    (∃ k : Fin 16, s.sp.val = k.val + 1 ∧ pop s = .ok (s.stack[k.val], { s with sp := ⟨k.val, by omega⟩ })) ∨
    (s.sp.val = 0 ∧ pop s = .error .stackUnderflow) := by
  unfold pop
  split
  · next h => exact .inl ⟨⟨s.sp.val - 1, by omega⟩, by simp; omega, rfl⟩
  · next h => exact .inr ⟨by omega, rfl⟩

/-- The end of a Step is always a next state: the handler's, or the one before the Step with FAULT latched. -/
theorem endStep_cases (i : Instr) (s : State) (r : Except Fault State) :
    (∃ t, r = .ok t ∧ endStep i s r = .next t) ∨
    (∃ f, r = .error f ∧ endStep i s r = .next (takeFault s (some (encode i)) f)) := by
  cases r with
  | ok t => exact .inl ⟨t, rfl, rfl⟩
  | error f => exact .inr ⟨f, rfl, rfl⟩

@[simp] theorem endStep_ok (i : Instr) (s t : State) : endStep i s (.ok t) = .next t := rfl

@[simp] theorem endStep_error (i : Instr) (s : State) (f : Fault) :
    endStep i s (.error f) = .next (takeFault s (some (encode i)) f) := rfl

theorem running_iff (s : State) : running s = true ↔ s.fault = none ∧ s.refused = none := by
  simp [running, Option.isNone_iff_eq_none]

/-- A pixel written reads back, and every other pixel is left alone. -/
theorem setPixel_get (fb : Framebuffer) (row r : Fin 32) (col c : Fin 64) (v : Bool) :
    (setPixel fb row col v)[r.val][c.val] = if r = row ∧ c = col then v else fb[r.val][c.val] := by
  unfold setPixel
  by_cases hr : r = row
  · subst hr
    by_cases hc : c = col
    · subst hc; simp
    · have : col.val ≠ c.val := fun e => hc (Fin.ext e.symm)
      simp [hc, this]
  · have : row.val ≠ r.val := fun e => hr (Fin.ext e.symm)
    simp [hr, this]

/-- The registers V0..Vx are those with a number up to x. -/
theorem mem_regsUpTo (x r : Reg) : r ∈ regsUpTo x ↔ r.val ≤ x.val := by
  have : r ∈ allRegs := by revert r; decide
  simp [regsUpTo, this]

/-- A selected key is a pressed one (44_timers_keys_bcd.md R162). -/
theorem selectKey_pressed {s : State} {k : Key} (h : selectKey s = some k) : getKey s k = true := by
  have key : ∀ k ∈ pressedKeys s, getKey s k = true := fun k hk => (List.mem_filter.1 hk).2
  unfold selectKey at h
  split at h
  · cases h
  · next hp => cases h; exact key _ (by simp [hp])
  · next a b rest hp =>
    cases h
    apply key
    rw [hp, List.getD_eq_getElem _ _ (Nat.mod_lt _ (by simp))]
    exact List.getElem_mem _

/-- No key is selected exactly when none is pressed. -/
theorem selectKey_none (s : State) : selectKey s = none ↔ ∀ k, getKey s k = false := by
  have hall : ∀ k : Key, k ∈ allRegs := by decide
  have : selectKey s = none ↔ pressedKeys s = [] := by
    unfold selectKey
    split <;> simp_all
  rw [this, pressedKeys, List.filter_eq_nil_iff]
  constructor
  · intro h k
    simpa using h k (hall k)
  · intro h k _
    simp [h k]

end Sys2Proof.Machine
end

