-- ==== Sys2Proof/Laws/Draw.lean ====
section
/-! SUPPORT. What the sprite operations do to a pixel, when they collide, and when they fault. -/

namespace Sys2Proof.Machine

/-- A sprite bit toggles the one pixel it falls on, if it is set and on the grid, and no other. -/
theorem plotBit_pixel (p : Framebuffer × Bool) (row col : Nat) (bit : Bool) (r : Fin 32) (c : Fin 64) :
    (plotBit p row col bit).1[r.val][c.val] =
      (p.1[r.val][c.val] ^^ (bit && decide (r.val = row ∧ c.val = col))) := by
  unfold plotBit
  split
  · next h =>
    cases bit
    · simp
    · simp only [if_true]
      rw [setPixel_get]
      by_cases hr : r = ⟨row, h.1⟩ ∧ c = ⟨col, h.2⟩
      · obtain ⟨rfl, rfl⟩ := hr
        simp
      · have : ¬ (r.val = row ∧ c.val = col) := fun e => hr ⟨Fin.ext e.1, Fin.ext e.2⟩
        simp [hr, this]
  · next h =>
    have : ¬ (r.val = row ∧ c.val = col) := fun e => h ⟨e.1 ▸ r.isLt, e.2 ▸ c.isLt⟩
    simp [this]

/-- A sprite bit collides when it is set and falls on a set pixel. -/
theorem plotBit_hit (p : Framebuffer × Bool) (row col : Nat) (bit : Bool) :
    (plotBit p row col bit).2 = true ↔
      p.2 = true ∨ (bit = true ∧ ∃ (r : Fin 32) (c : Fin 64), r.val = row ∧ c.val = col ∧ p.1[r.val][c.val] = true) := by
  unfold plotBit
  split
  · next h =>
    cases bit
    · simp
    · simp only [if_pos, Bool.or_eq_true, true_and]
      constructor
      · rintro (e | e)
        · exact .inl e
        · exact .inr ⟨⟨row, h.1⟩, ⟨col, h.2⟩, rfl, rfl, e⟩
      · rintro (e | ⟨r, c, rfl, rfl, e⟩)
        · exact .inl e
        · exact .inr e
  · next h =>
    constructor
    · exact .inl
    · rintro (e | ⟨-, r, c, rfl, rfl, -⟩)
      · exact e
      · exact absurd ⟨r.isLt, c.isLt⟩ h

/-- What the bits ks of a sprite byte do to a pixel. -/
theorem plotBits_pixel (row x0 : Nat) (b : Byte) (ks : List Nat) (hk : ks.Nodup) (p : Framebuffer × Bool)
    (r : Fin 32) (c : Fin 64) :
    (plotBits row x0 b ks p).1[r.val][c.val] =
      (p.1[r.val][c.val] ^^
        (decide (r.val = row ∧ x0 ≤ c.val ∧ c.val - x0 ∈ ks) && b.getLsbD (7 - (c.val - x0)))) := by
  induction ks generalizing p with
  | nil => simp [plotBits]
  | cons k rest ih =>
    have hn := List.nodup_cons.1 hk
    rw [plotBits, ih hn.2, plotBit_pixel]
    by_cases hr : r.val = row
    · by_cases hx : x0 ≤ c.val
      · by_cases hc : c.val - x0 = k
        · have : c.val = x0 + k := by omega
          simp [hr, this, hn.1]
        · have : c.val ≠ x0 + k := by omega
          simp [hr, hx, hc, this]
      · have : c.val ≠ x0 + k := by omega
        simp [hr, hx, this]
    · simp [hr]

theorem plotBits_hit (row x0 : Nat) (b : Byte) (ks : List Nat) (hk : ks.Nodup) (p : Framebuffer × Bool) :
    (plotBits row x0 b ks p).2 = true ↔
      p.2 = true ∨ ∃ (r : Fin 32) (c : Fin 64), (r.val = row ∧ x0 ≤ c.val ∧ c.val - x0 ∈ ks) ∧
        b.getLsbD (7 - (c.val - x0)) = true ∧ p.1[r.val][c.val] = true := by
  induction ks generalizing p with
  | nil => simp [plotBits]
  | cons k rest ih =>
    have hn := List.nodup_cons.1 hk
    rw [plotBits, ih hn.2, plotBit_hit, or_assoc]
    apply or_congr_right
    constructor
    · rintro (⟨hb, r, c, hr, hc, hp⟩ | ⟨r, c, ⟨hr, hx, hm⟩, hb, hp⟩)
      · have : c.val - x0 = k := by omega
        exact ⟨r, c, ⟨hr, by omega, by simp [this]⟩, by rw [this]; exact hb, hp⟩
      · rw [plotBit_pixel] at hp
        have : c.val ≠ x0 + k := by
          intro e
          apply hn.1
          rwa [show k = c.val - x0 by omega]
        exact ⟨r, c, ⟨hr, hx, by simp [hm]⟩, hb, by simpa [this] using hp⟩
    · rintro ⟨r, c, ⟨hr, hx, hm⟩, hb, hp⟩
      rcases List.mem_cons.1 hm with hm | hm
      · exact .inl ⟨by rw [← hm]; exact hb, r, c, hr, by omega, hp⟩
      · have : c.val ≠ x0 + k := by
          intro e
          apply hn.1
          rwa [show k = c.val - x0 by omega]
        refine .inr ⟨r, c, ⟨hr, hx, hm⟩, hb, ?_⟩
        rw [plotBit_pixel]
        simpa [this] using hp

theorem mem_eight (k : Nat) : k ∈ [0, 1, 2, 3, 4, 5, 6, 7] ↔ k < 8 := by
  simp only [List.mem_cons, List.not_mem_nil, or_false]
  omega

/-- One sprite row XORs its byte, bit 7 at column x0, into its framebuffer row (43_draw.md R150, R153). -/
theorem plotRow_pixel (row x0 : Nat) (b : Byte) (p : Framebuffer × Bool) (r : Fin 32) (c : Fin 64) :
    (plotRow row x0 b p).1[r.val][c.val] =
      (p.1[r.val][c.val] ^^
        (decide (r.val = row ∧ x0 ≤ c.val ∧ c.val - x0 < 8) && b.getLsbD (7 - (c.val - x0)))) := by
  rw [plotRow, plotBits_pixel _ _ _ _ (by decide)]
  simp only [mem_eight]

/-- One sprite row collides when a set bit of it falls on a set pixel (43_draw.md R154). -/
theorem plotRow_hit (row x0 : Nat) (b : Byte) (p : Framebuffer × Bool) :
    (plotRow row x0 b p).2 = true ↔
      p.2 = true ∨ ∃ (r : Fin 32) (c : Fin 64), (r.val = row ∧ x0 ≤ c.val ∧ c.val - x0 < 8) ∧
        b.getLsbD (7 - (c.val - x0)) = true ∧ p.1[r.val][c.val] = true := by
  rw [plotRow, plotBits_hit _ _ _ _ (by decide)]
  simp only [mem_eight]

/-- The sprite rows rs are read and plotted in turn, or the first of them whose window passes 0x0FFF faults
(43_draw.md R155). -/
theorem plotRows_step (s : State) (x0 y0 r : Nat) (rest : List Nat) (p : Framebuffer × Bool) :
    plotRows s x0 y0 (r :: rest) p =
      if s.index.toNat + r + 1 ≤ 0x0FFF then
        plotRows s x0 y0 rest (plotRow (y0 + r) x0 (memGet s.mem (s.index.toNat + r)) p)
      else .error (.memoryOutOfRange (s.index.toNat + r)) := by
  by_cases h : s.index.toNat + r + 1 ≤ 0x0FFF
  · rw [if_pos h, plotRows, readByte_ok h]
  · rw [if_neg h, plotRows, readByte_error (by omega)]

/-- Sprite rows that can all be read are drawn. -/
theorem plotRows_ok (s : State) (x0 y0 : Nat) (rs : List Nat) (p : Framebuffer × Bool)
    (h : ∀ r ∈ rs, s.index.toNat + r + 1 ≤ 0x0FFF) : ∃ q, plotRows s x0 y0 rs p = .ok q := by
  induction rs generalizing p with
  | nil => exact ⟨p, rfl⟩
  | cons r rest ih =>
    rw [plotRows_step, if_pos (h r (by simp))]
    exact ih _ (fun r' hr => h r' (by simp [hr]))

/-- Sprite rows that can be read up to one that cannot fault there. -/
theorem plotRows_error (s : State) (x0 y0 : Nat) (rs rest : List Nat) (r : Nat) (p : Framebuffer × Bool)
    (h : ∀ r' ∈ rs, s.index.toNat + r' + 1 ≤ 0x0FFF) (hr : 0x0FFF < s.index.toNat + r + 1) :
    plotRows s x0 y0 (rs ++ r :: rest) p = .error (.memoryOutOfRange (s.index.toNat + r)) := by
  induction rs generalizing p with
  | nil => rw [List.nil_append, plotRows_step, if_neg (by omega)]
  | cons r' rs ih =>
    rw [List.cons_append, plotRows_step, if_pos (h r' (by simp))]
    exact ih _ (fun r'' hr' => h r'' (by simp [hr']))

end Sys2Proof.Machine
end

