-- ==== Sys2Proof/Laws/Exec.lean ====
section
/-! SUPPORT. What the operations that several meanings share can do. -/

namespace Sys2Proof.Machine

/-- What the Step of an undescribed form can do (45_undescribed_and_unmapped.md R181). -/
theorem undescribedStep_cases (i : Instr) (s : State) (r : Except Fault State) :
    (s.undescribedOps = .refuse ∧ undescribedStep i s r = .next (takeRefusal s (encode i))) ∨
    (s.undescribedOps = .noop ∧ undescribedStep i s r = .next (advance s)) ∨
    (s.undescribedOps = .standard ∧ undescribedStep i s r = endStep i s r) := by
  unfold undescribedStep
  cases h : s.undescribedOps <;> simp

/-- What the Step of a SCHIP-only form can do (45_undescribed_and_unmapped.md R180, R181). -/
theorem schipStep_cases (i : Instr) (s : State) :
    (s.undescribedOps ≠ .noop ∧ schipStep i s = .next (takeRefusal s (encode i))) ∨
    (s.undescribedOps = .noop ∧ schipStep i s = .next (advance s)) := by
  unfold schipStep
  cases h : s.undescribedOps <;> simp

/-- A skip goes on by two bytes or stays (40_screen_and_control.md R106). -/
theorem skipIf_cases (s : State) (c : Bool) :
    (c = true ∧ skipIf s c = advance s) ∨ (c = false ∧ skipIf s c = s) := by
  cases c <;> simp [skipIf]

/-- A load of registers that can all be read writes only the registers named, each with its byte (R179). -/
theorem loadEach_ok (rs : List Reg) (s : State) (h : ∀ r ∈ rs, s.index.toNat + r.val + 1 ≤ 0x0FFF) :
    ∃ v, loadEach s rs = .ok { s with v := v } ∧
      ∀ r : Reg, v[r.val] = if r ∈ rs then memGet s.mem (s.index.toNat + r.val) else getV s r := by
  induction rs generalizing s with
  | nil => exact ⟨s.v, rfl, fun r => by simp [getV]⟩
  | cons q rest ih =>
    obtain ⟨v, hv, hr⟩ := ih (setV s q (memGet s.mem (s.index.toNat + q.val))) (fun r hr => h r (by simp [hr]))
    refine ⟨v, ?_, fun r => ?_⟩
    · rw [loadEach, readByte_ok (h q (by simp))]
      exact hv
    · rw [hr r]
      by_cases hm : r ∈ rest
      · simp [hm, setV]
      · by_cases hq : r = q
        · subst hq
          simp [hm]
        · simp [hm, hq, getV_setV_ne]

/-- A load of registers faults at the first whose window passes 0x0FFF (R179). -/
theorem loadEach_error (rs rest : List Reg) (q : Reg) (s : State)
    (h : ∀ r ∈ rs, s.index.toNat + r.val + 1 ≤ 0x0FFF) (hq : 0x0FFF < s.index.toNat + q.val + 1) :
    loadEach s (rs ++ q :: rest) = .error (.memoryOutOfRange (s.index.toNat + q.val)) := by
  induction rs generalizing s with
  | nil => rw [List.nil_append, loadEach, readByte_error hq]
  | cons r rs ih =>
    rw [List.cons_append, loadEach, readByte_ok (h r (by simp))]
    exact ih _ (fun r' hr => h r' (by simp [hr])) hq

end Sys2Proof.Machine
end

