-- ==== Sys2Proof/Laws/HostPort.lean ====
section
/-! SUPPORT. What each move of the host can do, and the fields of the state after reset under a value of the parameter. -/

namespace Sys2Proof.Machine

@[simp] theorem resetUnder_undescribedOps (u : UndescribedOps) : (resetUnder u).undescribedOps = u := rfl

/-- The parameter is the only field in which two states after reset differ. -/
theorem resetUnder_eq (u : UndescribedOps) : resetUnder u = { State.reset with undescribedOps := u } := rfl

/-- State.reset is the one under the value 00_scope.md R11 gives. -/
@[simp] theorem resetUnder_refuse : resetUnder .refuse = State.reset := rfl

/-- A ROM load copies a ROM that fits, or answers LoadError and changes nothing (70_reset_and_hazards.md R222, R223). -/
theorem loadRom_cases (bytes : List Byte) (s : State) :
    (bytes.length ≤ 0x1000 - 0x200 ∧ loadRom bytes s = (.loaded, setMem s (memSetAll s.mem 0x200 bytes))) ∨
    (0x1000 - 0x200 < bytes.length ∧ loadRom bytes s = (.oversize, s)) := by
  unfold loadRom
  split
  · next h => exact .inl ⟨h, rfl⟩
  · next h => exact .inr ⟨Nat.lt_of_not_le h, rfl⟩

/-- A TimerTick counts the timers down, or, with something latched, does nothing (60_exceptions.md R201, R210). -/
theorem timerTick_cases (s : State) :
    (running s = true ∧ timerTick s =
      { s with dt := if s.dt = 0 then 0 else s.dt - 1, st := if s.st = 0 then 0 else s.st - 1 }) ∨
    (running s = false ∧ timerTick s = s) := by
  unfold timerTick
  cases h : running s <;> simp

/-- The down-count of one timer, as a number: one less, staying at 0 (60_exceptions.md R211). -/
theorem countDown_toNat (b : Byte) : (if b = 0 then (0 : Byte) else b - 1).toNat = b.toNat - 1 := by
  split
  · next h => simp [h]
  · next h =>
    have : b.toNat ≠ 0 := fun e => h (BitVec.eq_of_toNat_eq e)
    rw [BitVec.toNat_sub_of_le (by simp [BitVec.le_def]; omega)]
    rfl

/-- With no host move pending, step is one Step of the core (20_memory.md R64). -/
theorem step_idle {s : State} (h : s.hostQueue = []) : step s = cycle s := by
  simp [step, nextMove, h]

/-- With a host move pending, step takes it off and performs it. -/
theorem step_pending {s : State} {m : HostMove} {rest : List HostMove} (h : s.hostQueue = m :: rest) :
    step s = hostMove m { s with hostQueue := rest } := by
  simp [step, nextMove, h]

/-- A Step in which nothing is latched runs the fetched word, or faults at the fetch; else it does nothing (R80, R201). -/
theorem cycle_cases (s : State) :
    (running s = true ∧ ∃ w, fetch s = .ok w ∧ cycle s = exec (decodeWord w) s) ∨
    (running s = true ∧ ∃ f, fetch s = .error f ∧ cycle s = .next (takeFault s none f)) ∨
    (running s = false ∧ cycle s = .next s) := by
  unfold cycle
  cases hr : running s
  · simp
  · cases hf : fetch s <;> simp

end Sys2Proof.Machine
end

