-- ==== Sys2Proof/Laws/PerInstr.lean ====
section
/-! SUPPORT. One statement about every instruction as syntax: its word has the fixed bits of its row of
spec/opcode_table.json (30_encoding.md R83). -/

namespace Sys2Proof.Laws.TableRow

/-- A row's mask and match, as spec/opcode_table.json gives them. -/
def maskMatch (i : Instr) : Word × Word :=
  match i with
  | .cls => (0xFFFF, 0x00E0)
  | .ret => (0xFFFF, 0x00EE)
  | .jp _ => (0xF000, 0x1000)
  | .call _ => (0xF000, 0x2000)
  | .seImm _ _ => (0xF000, 0x3000)
  | .sneImm _ _ => (0xF000, 0x4000)
  | .seReg _ _ _ => (0xF000, 0x5000)
  | .ldImm _ _ => (0xF000, 0x6000)
  | .addImm _ _ => (0xF000, 0x7000)
  | .ldReg _ _ => (0xF00F, 0x8000)
  | .orReg _ _ => (0xF00F, 0x8001)
  | .andReg _ _ => (0xF00F, 0x8002)
  | .xorReg _ _ => (0xF00F, 0x8003)
  | .addReg _ _ => (0xF00F, 0x8004)
  | .sub _ _ => (0xF00F, 0x8005)
  | .shr _ _ => (0xF00F, 0x8006)
  | .subn _ _ => (0xF00F, 0x8007)
  | .shl _ _ => (0xF00F, 0x800E)
  | .sneReg _ _ _ => (0xF000, 0x9000)
  | .ldI _ => (0xF000, 0xA000)
  | .jpV0 _ => (0xF000, 0xB000)
  | .rnd _ _ => (0xF000, 0xC000)
  | .drw _ _ _ => (0xF000, 0xD000)
  | .ldKey _ => (0xF0FF, 0xF00A)
  | .ldDt _ => (0xF0FF, 0xF015)
  | .ldSt _ => (0xF0FF, 0xF018)
  | .addI _ => (0xF0FF, 0xF01E)
  | .ldBcd _ => (0xF0FF, 0xF033)
  | .skp _ => (0xF0FF, 0xE09E)
  | .sknp _ => (0xF0FF, 0xE0A1)
  | .ldFromDt _ => (0xF0FF, 0xF007)
  | .ldFont _ => (0xF0FF, 0xF029)
  | .ldHiFont _ => (0xF0FF, 0xF030)
  | .storeRegs _ => (0xF0FF, 0xF055)
  | .loadRegs _ => (0xF0FF, 0xF065)
  | .scd _ => (0xFFF0, 0x00C0)
  | .scr => (0xFFFF, 0x00FB)
  | .scl => (0xFFFF, 0x00FC)
  | .exit => (0xFFFF, 0x00FD)
  | .low => (0xFFFF, 0x00FE)
  | .high => (0xFFFF, 0x00FF)
  | .saveFlags _ => (0xF0FF, 0xF075)
  | .restoreFlags _ => (0xF0FF, 0xF085)
  | .unmapped8xy8 _ _ => (0xF00F, 0x8008)
  | .unmapped8xy9 _ _ => (0xF00F, 0x8009)
  | .unmapped8xyA _ _ => (0xF00F, 0x800A)
  | .unmapped8xyB _ _ => (0xF00F, 0x800B)
  | .unmapped8xyC _ _ => (0xF00F, 0x800C)
  | .unmapped8xyD _ _ => (0xF00F, 0x800D)
  | .unmapped8xyF _ _ => (0xF00F, 0x800F)
  | .unmapped0nnn _ => (0xF000, 0x0000)
  | .unmappedExnn _ _ => (0xF000, 0xE000)
  | .unmappedFxnn _ _ => (0xF000, 0xF000)

/-- The word of the instruction has its row's fixed bits. -/
def Statement (i : Instr) : Prop := encode i &&& (maskMatch i).1 = (maskMatch i).2

theorem getLsbD_xyn (c : Nibble) (x y : Reg) (n : Nibble) (k : Nat) :
    (wordXyn c x y n).getLsbD k = if k < 4 then n.getLsbD k else if k - 4 < 4 then (BitVec.ofNat 4 y.val).getLsbD (k - 4)
      else if k - 4 - 4 < 4 then (BitVec.ofNat 4 x.val).getLsbD (k - 4 - 4) else c.getLsbD (k - 4 - 4 - 4) := by
  show BitVec.getLsbD (w := 4 + 4 + 4 + 4) (c ++ BitVec.ofNat 4 x.val ++ BitVec.ofNat 4 y.val ++ n) k = _
  simp only [BitVec.getLsbD_append]

theorem getLsbD_xnn (c : Nibble) (x : Reg) (nn : Byte) (k : Nat) :
    (wordXnn c x nn).getLsbD k = if k < 8 then nn.getLsbD k
      else if k - 8 < 4 then (BitVec.ofNat 4 x.val).getLsbD (k - 8) else c.getLsbD (k - 8 - 4) := by
  show BitVec.getLsbD (w := 4 + 4 + 8) (c ++ BitVec.ofNat 4 x.val ++ nn) k = _
  simp only [BitVec.getLsbD_append]

theorem getLsbD_nnn (c : Nibble) (nnn : Addr) (k : Nat) :
    (wordNnn c nnn).getLsbD k = if k < 12 then nnn.getLsbD k else c.getLsbD (k - 12) := by
  show BitVec.getLsbD (w := 4 + 12) (c ++ nnn) k = _
  simp only [BitVec.getLsbD_append]

/-- Two words whose bits agree, bit by bit. -/
theorem word_ext {v w : Word} (h : ∀ k : Fin 16, v.getLsbD k.val = w.getLsbD k.val) : v = w := by
  apply BitVec.eq_of_getLsbD_eq
  intro k hk
  exact h ⟨k, hk⟩

theorem xyn_class (c : Nibble) (x y : Reg) (n : Nibble) :
    wordXyn c x y n &&& 0xF000 = c.zeroExtend 16 <<< 12 := by
  apply word_ext
  intro k
  fin_cases k <;> simp only [BitVec.getLsbD_and, getLsbD_xyn] <;> simp

theorem xyn_class_n (c : Nibble) (x y : Reg) (n : Nibble) :
    wordXyn c x y n &&& 0xF00F = (c.zeroExtend 16 <<< 12) ||| n.zeroExtend 16 := by
  apply word_ext
  intro k
  fin_cases k <;> simp only [BitVec.getLsbD_and, getLsbD_xyn] <;> simp

theorem xyn_all_but_n (c : Nibble) (x y : Reg) (n : Nibble) :
    wordXyn c x y n &&& 0xFFF0 = wordXyn c x y 0 := by
  apply word_ext
  intro k
  fin_cases k <;> simp only [BitVec.getLsbD_and, getLsbD_xyn] <;> simp

theorem xnn_class (c : Nibble) (x : Reg) (nn : Byte) :
    wordXnn c x nn &&& 0xF000 = c.zeroExtend 16 <<< 12 := by
  apply word_ext
  intro k
  fin_cases k <;> simp only [BitVec.getLsbD_and, getLsbD_xnn] <;> simp

theorem xnn_class_nn (c : Nibble) (x : Reg) (nn : Byte) :
    wordXnn c x nn &&& 0xF0FF = (c.zeroExtend 16 <<< 12) ||| nn.zeroExtend 16 := by
  apply word_ext
  intro k
  fin_cases k <;> simp only [BitVec.getLsbD_and, getLsbD_xnn] <;> simp

theorem nnn_class (c : Nibble) (nnn : Addr) :
    wordNnn c nnn &&& 0xF000 = c.zeroExtend 16 <<< 12 := by
  apply word_ext
  intro k
  fin_cases k <;> simp only [BitVec.getLsbD_and, getLsbD_nnn] <;> simp

theorem cls : Statement (.cls) := rfl

theorem ret : Statement (.ret) := rfl

theorem jp (nnn : Addr) : Statement (.jp nnn) := (nnn_class _ _).trans rfl

theorem call (nnn : Addr) : Statement (.call nnn) := (nnn_class _ _).trans rfl

theorem seImm (x : Reg) (nn : Byte) : Statement (.seImm x nn) := (xnn_class _ _ _).trans rfl

theorem sneImm (x : Reg) (nn : Byte) : Statement (.sneImm x nn) := (xnn_class _ _ _).trans rfl

theorem seReg (x : Reg) (y : Reg) (n : Nibble) : Statement (.seReg x y n) := (xyn_class _ _ _ _).trans rfl

theorem ldImm (x : Reg) (nn : Byte) : Statement (.ldImm x nn) := (xnn_class _ _ _).trans rfl

theorem addImm (x : Reg) (nn : Byte) : Statement (.addImm x nn) := (xnn_class _ _ _).trans rfl

theorem ldReg (x : Reg) (y : Reg) : Statement (.ldReg x y) := (xyn_class_n _ _ _ _).trans rfl

theorem orReg (x : Reg) (y : Reg) : Statement (.orReg x y) := (xyn_class_n _ _ _ _).trans rfl

theorem andReg (x : Reg) (y : Reg) : Statement (.andReg x y) := (xyn_class_n _ _ _ _).trans rfl

theorem xorReg (x : Reg) (y : Reg) : Statement (.xorReg x y) := (xyn_class_n _ _ _ _).trans rfl

theorem addReg (x : Reg) (y : Reg) : Statement (.addReg x y) := (xyn_class_n _ _ _ _).trans rfl

theorem sub (x : Reg) (y : Reg) : Statement (.sub x y) := (xyn_class_n _ _ _ _).trans rfl

theorem shr (x : Reg) (y : Reg) : Statement (.shr x y) := (xyn_class_n _ _ _ _).trans rfl

theorem subn (x : Reg) (y : Reg) : Statement (.subn x y) := (xyn_class_n _ _ _ _).trans rfl

theorem shl (x : Reg) (y : Reg) : Statement (.shl x y) := (xyn_class_n _ _ _ _).trans rfl

theorem sneReg (x : Reg) (y : Reg) (n : Nibble) : Statement (.sneReg x y n) := (xyn_class _ _ _ _).trans rfl

theorem ldI (nnn : Addr) : Statement (.ldI nnn) := (nnn_class _ _).trans rfl

theorem jpV0 (nnn : Addr) : Statement (.jpV0 nnn) := (nnn_class _ _).trans rfl

theorem rnd (x : Reg) (nn : Byte) : Statement (.rnd x nn) := (xnn_class _ _ _).trans rfl

theorem drw (x : Reg) (y : Reg) (n : Nibble) : Statement (.drw x y n) := (xyn_class _ _ _ _).trans rfl

theorem ldKey (x : Reg) : Statement (.ldKey x) := (xnn_class_nn _ _ _).trans rfl

theorem ldDt (x : Reg) : Statement (.ldDt x) := (xnn_class_nn _ _ _).trans rfl

theorem ldSt (x : Reg) : Statement (.ldSt x) := (xnn_class_nn _ _ _).trans rfl

theorem addI (x : Reg) : Statement (.addI x) := (xnn_class_nn _ _ _).trans rfl

theorem ldBcd (x : Reg) : Statement (.ldBcd x) := (xnn_class_nn _ _ _).trans rfl

theorem skp (x : Reg) : Statement (.skp x) := (xnn_class_nn _ _ _).trans rfl

theorem sknp (x : Reg) : Statement (.sknp x) := (xnn_class_nn _ _ _).trans rfl

theorem ldFromDt (x : Reg) : Statement (.ldFromDt x) := (xnn_class_nn _ _ _).trans rfl

theorem ldFont (x : Reg) : Statement (.ldFont x) := (xnn_class_nn _ _ _).trans rfl

theorem ldHiFont (x : Reg) : Statement (.ldHiFont x) := (xnn_class_nn _ _ _).trans rfl

theorem storeRegs (x : Reg) : Statement (.storeRegs x) := (xnn_class_nn _ _ _).trans rfl

theorem loadRegs (x : Reg) : Statement (.loadRegs x) := (xnn_class_nn _ _ _).trans rfl

theorem scd (n : Nibble) : Statement (.scd n) := (xyn_all_but_n 0x0 0 0xC n).trans rfl

theorem scr : Statement (.scr) := rfl

theorem scl : Statement (.scl) := rfl

theorem exit : Statement (.exit) := rfl

theorem low : Statement (.low) := rfl

theorem high : Statement (.high) := rfl

theorem saveFlags (x : Reg) : Statement (.saveFlags x) := (xnn_class_nn _ _ _).trans rfl

theorem restoreFlags (x : Reg) : Statement (.restoreFlags x) := (xnn_class_nn _ _ _).trans rfl

theorem unmapped8xy8 (x : Reg) (y : Reg) : Statement (.unmapped8xy8 x y) := (xyn_class_n _ _ _ _).trans rfl

theorem unmapped8xy9 (x : Reg) (y : Reg) : Statement (.unmapped8xy9 x y) := (xyn_class_n _ _ _ _).trans rfl

theorem unmapped8xyA (x : Reg) (y : Reg) : Statement (.unmapped8xyA x y) := (xyn_class_n _ _ _ _).trans rfl

theorem unmapped8xyB (x : Reg) (y : Reg) : Statement (.unmapped8xyB x y) := (xyn_class_n _ _ _ _).trans rfl

theorem unmapped8xyC (x : Reg) (y : Reg) : Statement (.unmapped8xyC x y) := (xyn_class_n _ _ _ _).trans rfl

theorem unmapped8xyD (x : Reg) (y : Reg) : Statement (.unmapped8xyD x y) := (xyn_class_n _ _ _ _).trans rfl

theorem unmapped8xyF (x : Reg) (y : Reg) : Statement (.unmapped8xyF x y) := (xyn_class_n _ _ _ _).trans rfl

theorem unmapped0nnn (nnn : Addr) : Statement (.unmapped0nnn nnn) := (nnn_class _ _).trans rfl

theorem unmappedExnn (x : Reg) (nn : Byte) : Statement (.unmappedExnn x nn) := (xnn_class _ _ _).trans rfl

theorem unmappedFxnn (x : Reg) (nn : Byte) : Statement (.unmappedFxnn x nn) := (xnn_class _ _ _).trans rfl

end Sys2Proof.Laws.TableRow
end

