-- ==== Sys2Proof/Tests/Slice0.lean ====
section
/-! SUPPORT. Tests. Expected results are those of spec/95_test_vectors.md (the vector is named), or are worked out by hand
from the rule named. -/

namespace Sys2Proof.Tests

open Sys2Proof Sys2Proof.Machine

/-! ## Well-formedness: one ill-formed term for each check -/

theorem test_fallback0_is_refused_for_named_words :
    (Instr.unmapped0nnn 0x0E0).wellFormed = false ∧ (Instr.unmapped0nnn 0x0EE).wellFormed = false ∧
    (Instr.unmapped0nnn 0x0C0).wellFormed = false ∧ (Instr.unmapped0nnn 0x0CF).wellFormed = false ∧
    (Instr.unmapped0nnn 0x0FB).wellFormed = false ∧ (Instr.unmapped0nnn 0x0FF).wellFormed = false ∧
    (Instr.unmapped0nnn 0x0BF).wellFormed = true ∧ (Instr.unmapped0nnn 0x0D0).wellFormed = true ∧
    (Instr.unmapped0nnn 0x0FA).wellFormed = true ∧ (Instr.unmapped0nnn 0x100).wellFormed = true := by decide

theorem test_fallbackE_is_refused_for_named_words :
    (Instr.unmappedExnn 0 0x9E).wellFormed = false ∧ (Instr.unmappedExnn 0xF 0xA1).wellFormed = false ∧
    (Instr.unmappedExnn 0 0x9F).wellFormed = true := by decide

theorem test_fallbackF_is_refused_for_named_words :
    (Instr.unmappedFxnn 0 0x07).wellFormed = false ∧ (Instr.unmappedFxnn 0xF 0x85).wellFormed = false ∧
    (Instr.unmappedFxnn 3 0x33).wellFormed = false ∧ (Instr.unmappedFxnn 0 0x08).wellFormed = true := by decide

/-! ## Decoding: every row, from a word written out bit by bit from 30_encoding.md R83 -/

theorem test_decode_control :
    decodeWord 0b0000000011100000 = .cls ∧ decodeWord 0b0000000011101110 = .ret ∧
    decodeWord 0b0001001000110100 = .jp 0x234 ∧ decodeWord 0b1011111111111111 = .jpV0 0xFFF ∧
    decodeWord 0b0010001000001000 = .call 0x208 ∧ decodeWord 0b0011001101000010 = .seImm 3 0x42 ∧
    decodeWord 0b0100001101000010 = .sneImm 3 0x42 ∧ decodeWord 0b0101000100100001 = .seReg 1 2 1 ∧
    decodeWord 0b1001000100101111 = .sneReg 1 2 0xF := by decide

theorem test_decode_alu :
    decodeWord 0b0110000011101110 = .ldImm 0 0xEE ∧ decodeWord 0b0111111100000011 = .addImm 0xF 0x03 ∧
    decodeWord 0b1000000100100000 = .ldReg 1 2 ∧ decodeWord 0b1000000100100001 = .orReg 1 2 ∧
    decodeWord 0b1000000100100010 = .andReg 1 2 ∧ decodeWord 0b1000000100100011 = .xorReg 1 2 ∧
    decodeWord 0b1000000000010100 = .addReg 0 1 ∧ decodeWord 0b1000000011110101 = .sub 0 0xF ∧
    decodeWord 0b1000001110110110 = .shr 3 0xB ∧ decodeWord 0b1000111100010111 = .subn 0xF 1 ∧
    decodeWord 0b1000001100001110 = .shl 3 0 := by decide

theorem test_decode_index_draw :
    decodeWord 0b1010001100000000 = .ldI 0x300 ∧ decodeWord 0b1100001100001111 = .rnd 3 0x0F ∧
    decodeWord 0b1111000000011110 = .addI 0 ∧ decodeWord 0b1101000100100101 = .drw 1 2 5 := by decide

theorem test_decode_timers_keys :
    decodeWord 0b1111000100001010 = .ldKey 1 ∧ decodeWord 0b1111010100010101 = .ldDt 5 ∧
    decodeWord 0b1111010100011000 = .ldSt 5 ∧ decodeWord 0b1111000000110011 = .ldBcd 0 := by decide

theorem test_decode_undescribed :
    decodeWord 0b1110000110011110 = .skp 1 ∧ decodeWord 0b1110000110100001 = .sknp 1 ∧
    decodeWord 0b1111001100000111 = .ldFromDt 3 ∧ decodeWord 0b1111001000101001 = .ldFont 2 ∧
    decodeWord 0b1111001000110000 = .ldHiFont 2 ∧ decodeWord 0b1111000101010101 = .storeRegs 1 ∧
    decodeWord 0b1111000101100101 = .loadRegs 1 := by decide

theorem test_decode_schip :
    decodeWord 0b0000000011000101 = .scd 5 ∧ decodeWord 0b0000000011111011 = .scr ∧
    decodeWord 0b0000000011111100 = .scl ∧ decodeWord 0b0000000011111101 = .exit ∧
    decodeWord 0b0000000011111110 = .low ∧ decodeWord 0b0000000011111111 = .high ∧
    decodeWord 0b1111011101110101 = .saveFlags 7 ∧ decodeWord 0b1111011110000101 = .restoreFlags 7 := by decide

theorem test_decode_unmapped :
    decodeWord 0b1000000100101000 = .unmapped8xy8 1 2 ∧ decodeWord 0b1000000100101001 = .unmapped8xy9 1 2 ∧
    decodeWord 0b1000000100101010 = .unmapped8xyA 1 2 ∧ decodeWord 0b1000000100101011 = .unmapped8xyB 1 2 ∧
    decodeWord 0b1000000100101100 = .unmapped8xyC 1 2 ∧ decodeWord 0b1000000100101101 = .unmapped8xyD 1 2 ∧
    decodeWord 0b1000000100101111 = .unmapped8xyF 1 2 ∧ decodeWord 0b0000000100100011 = .unmapped0nnn 0x123 ∧
    decodeWord 0b1110000000000000 = .unmappedExnn 0 0 ∧ decodeWord 0b1111000011111111 = .unmappedFxnn 0 0xFF := by decide

/-- R71: the byte at the lower address is the high byte; two bytes are taken, and fewer are no instruction. -/
theorem test_decode_bytes :
    decode [0x6A, 0x42, 0x12] = .ok (.ldImm 0xA 0x42, [0x12]) ∧ decode [0x6A] = .error (.tooShort 1) ∧
    decode [] = .error (.tooShort 0) ∧ decodeTableWord 16 0xD125 = some (.drw 1 2 5) := by decide

theorem test_encode_words :
    encode (.drw 1 2 5) = 0xD125 ∧ encode (.seReg 1 2 1) = 0x5121 ∧ encode (.scd 5) = 0x00C5 ∧
    encode (.jpV0 0x300) = 0xB300 ∧ encodeBytes (.ldImm 0xA 0x42) = [0x6A, 0x42] := by decide

/-! ## One Step of each instruction -/

/-- The state a step answers, if it answers one. -/
def answered (r : Result) : Option State :=
  match r with
  | .next t => some t
  | .fault _ => none
  | .refused _ => none

/-- The reset state with registers given. -/
def regs (l : List (Reg × Byte)) : State := l.foldl (fun s p => setV s p.1 p.2) State.reset

/-- The reset state with I, some bytes from I on, and registers given. -/
def pointed (i : Word) (bytes : List Byte) (l : List (Reg × Byte)) : State :=
  setIndex (setMem (regs l) (memSetAll [] i.toNat bytes)) i

/-- One step of the word at PC. -/
def ran (w : Nat) (s : State) : Option State := answered (step (s.withFetchWord 16 w))

/-- The registers, and then PC. -/
def shows (rs : List Reg) (t : State) : List Byte × Word := (rs.map (getV t), t.pc)

/-- The fault's cause and PC. -/
def faultOf (t : State) : Option Fault × Word := (t.fault.map FaultRecord.cause, t.pc)

/-- The pixels of one row, by column. -/
def pixels (row : Fin 32) (cols : List (Fin 64)) (t : State) : List Bool := cols.map (fbGet t row)

/-- `s` with the stack depth and the entry below it given. -/
def stacked (n : Fin 17) (k : Fin 16) (a : Word) (s : State) : State :=
  { s with sp := n, stack := s.stack.set k.val a }

-- T-CLS-1, V-CLS-2
theorem test_cls : (ran 0x00E0 (fbSet 31 63 true (fbSet 0 0 true (regs [(0xF, 1)])))).map
    (fun t => (pixels 0 [0] t, pixels 31 [63] t, shows [0xF] t)) = some ([false], [false], [1], 0x202) := by decide

-- V-RET-1, V-RET-2
theorem test_ret : (ran 0x00EE (stacked 1 0 0x206 (setPc State.reset 0x20C))).map
    (fun t => (t.pc, t.sp)) = some (0x206, 0) := by decide
theorem test_ret_underflow : (ran 0x00EE State.reset).map faultOf = some (some .stackUnderflow, 0x200) := by decide

-- V-JP-1; V-JPV0-3, V-JPV0-2
theorem test_jp : (ran 0x1234 State.reset).map State.pc = some 0x234 := by decide
theorem test_jpV0_not_masked : (ran 0xBFFF (regs [(0, 0xFF)])).map State.pc = some 0x10FE := by decide
theorem test_jpV0_offset_is_v0 : (ran 0xB500 (regs [(5, 0x40)])).map State.pc = some 0x500 := by decide

-- V-CALL-3, V-CALL-2
theorem test_call_last_entry : (ran 0x2300 (stacked 15 0 0 State.reset)).map
    (fun t => (t.pc, t.sp, t.stack[15])) = some (0x300, 16, 0x202) := by decide
theorem test_call_overflow : (ran 0x2300 (stacked 16 0 0 State.reset)).map
    (fun t => (faultOf t, t.sp)) = some ((some (.stackOverflow 16), 0x200), 16) := by decide

-- V-SE-1, V-SE-2; V-SNE-1, V-SNE-2
theorem test_seImm : (ran 0x3342 (regs [(3, 0x42)])).map State.pc = some 0x204 ∧
    (ran 0x3342 (regs [(3, 0x41)])).map State.pc = some 0x202 := by decide
theorem test_sneImm : (ran 0x4342 (regs [(3, 0x41)])).map State.pc = some 0x204 ∧
    (ran 0x4342 (regs [(3, 0x42)])).map State.pc = some 0x202 := by decide

-- V-DEC-3, V-SER-2; V-DEC-4, V-SNR-2
theorem test_seReg : (ran 0x5121 (regs [(1, 9), (2, 9)])).map State.pc = some 0x204 ∧
    (ran 0x5120 (regs [(1, 7), (2, 8)])).map State.pc = some 0x202 := by decide
theorem test_sneReg : (ran 0x912F (regs [(1, 9), (2, 8)])).map State.pc = some 0x204 ∧
    (ran 0x9440 (regs [(4, 1)])).map State.pc = some 0x202 := by decide

-- V-LD-1, V-LDR-1, V-ADDI-1, V-ADDI-3
theorem test_ldImm : (ran 0x60EE State.reset).map (shows [0]) = some ([0xEE], 0x202) := by decide
theorem test_ldReg : (ran 0x8120 (regs [(2, 0x33)])).map (shows [1, 2]) = some ([0x33, 0x33], 0x202) := by decide
theorem test_addImm_no_flag : (ran 0x7001 (regs [(0, 0xFF)])).map (shows [0, 0xF]) = some ([0, 0], 0x202) := by decide
theorem test_addImm_on_vf : (ran 0x7F03 (regs [(0xF, 0xFE)])).map (shows [0xF]) = some ([1], 0x202) := by decide

-- V-OR-1, V-AND-1, V-XOR-1
theorem test_or : (ran 0x8121 (regs [(1, 0x0F), (2, 0xF0), (0xF, 0x55)])).map (shows [1, 0xF]) =
    some ([0xFF, 0x55], 0x202) := by decide
theorem test_and : (ran 0x8122 (regs [(1, 0x3C), (2, 0x0F), (0xF, 1)])).map (shows [1, 0xF]) =
    some ([0x0C, 1], 0x202) := by decide
theorem test_xor : (ran 0x8123 (regs [(1, 0x3C), (2, 0x0F)])).map (shows [1, 2]) = some ([0x33, 0x0F], 0x202) := by decide

-- V-ADD-2, V-ADD-5
theorem test_addReg_carry : (ran 0x8014 (regs [(0, 0x80), (1, 0x80)])).map (shows [0, 0xF]) = some ([0, 1], 0x202) := by decide
theorem test_addReg_to_vf : (ran 0x8F14 (regs [(0xF, 0xFF), (1, 1)])).map (shows [0xF]) = some ([1], 0x202) := by decide

-- V-SUB-1, V-SUB-5
theorem test_sub_equal : (ran 0x8015 (regs [(0, 7), (1, 7)])).map (shows [0, 0xF]) = some ([0, 0], 0x202) := by decide
theorem test_sub_to_vf : (ran 0x8F15 (regs [(0xF, 3), (1, 5)])).map (shows [0xF]) = some ([0xFE], 0x202) := by decide

-- V-SUBN-1, V-SUBN-4
theorem test_subn : (ran 0x8017 (regs [(0, 2), (1, 3)])).map (shows [0, 0xF]) = some ([1, 1], 0x202) := by decide
theorem test_subn_to_vf : (ran 0x8F17 (regs [(0xF, 3), (1, 5)])).map (shows [0xF]) = some ([2], 0x202) := by decide

-- V-DEC-2, V-SHR-5; T-SHF-2, V-SHL-4
theorem test_shr : (ran 0x83B6 (regs [(3, 0x10), (0xB, 0x77)])).map (shows [3, 0xF, 0xB]) =
    some ([8, 0, 0x77], 0x202) := by decide
theorem test_shr_of_vf : (ran 0x8F06 (regs [(0xF, 3)])).map (shows [0xF]) = some ([0], 0x202) := by decide
theorem test_shl : (ran 0x830E (regs [(3, 0x81)])).map (shows [3, 0xF]) = some ([2, 1], 0x202) := by decide
theorem test_shl_of_vf : (ran 0x8F0E (regs [(0xF, 0x81)])).map (shows [0xF]) = some ([2], 0x202) := by decide

-- V-LDI-2; V-ADDI-I-4, V-ADDI-I-5
theorem test_ldI : (ran 0xAFFF State.reset).map State.index = some 0xFFF := by decide
theorem test_addI_wraps : (ran 0xF01E (pointed 0xFFFF [] [(0, 1)])).map (fun t => (t.index, shows [0xF] t)) =
    some (0, [0], 0x202) := by decide
theorem test_addI_of_vf : (ran 0xFF1E (pointed 0x0FF0 [] [(0xF, 0x20)])).map (fun t => (t.index, shows [0xF] t)) =
    some (0x1010, [1], 0x202) := by decide

-- V-RND-1: the byte on the port, once
theorem test_rnd : (ran 0xC30F (randPort 0xA7 State.reset)).map (fun t => (shows [3] t, t.rand, t.draws)) =
    some (([7], 0x202), none, 1) := by decide

-- V-DRW-8, V-DRW-14
theorem test_drw_clips : (ran 0xD011 (fbSet 0 60 true (pointed 0x300 [0xFF] [(0, 60)]))).map
    (fun t => (pixels 0 [0, 3, 59, 60, 61, 63] t, shows [0xF] t)) =
    some ([false, false, false, false, true, true], [1], 0x202) := by decide
theorem test_drw_reads_clipped_rows : (ran 0xD013 (pointed 0x0FFD [] [(1, 31), (0xF, 1)])).map
    (fun t => (faultOf t, getV t 0xF)) = some ((some (.memoryOutOfRange 0x0FFF), 0x200), 1) := by decide

-- V-KEY-3, V-KEY-2
theorem test_ldKey_pressed : (ran 0xFF0A (keyWrite 0xF true State.reset)).map (shows [0xF]) = some ([0x0F], 0x202) := by decide
theorem test_ldKey_none : (ran 0xF10A (regs [(1, 0x55)])).map (shows [1]) = some ([0x55], 0x200) := by decide

-- V-DT-1, V-ST-1
theorem test_ldDt : (ran 0xF515 (regs [(5, 0x3C)])).map (fun t => (t.dt, t.st)) = some (0x3C, 0) := by decide
theorem test_ldSt : (ran 0xF518 (regs [(5, 2)])).map (fun t => (t.dt, t.st, soundActive t)) = some (0, 2, true) := by decide

-- V-BCD-1, V-BCD-5
theorem test_ldBcd : (ran 0xF033 (pointed 0x300 [] [(0, 0xFE)])).map
    (fun t => ([0x300, 0x301, 0x302, 0x303].map (memGet t.mem), t.index)) = some ([2, 5, 4, 0], 0x300) := by decide
theorem test_ldBcd_faults : (ran 0xF033 (pointed 0x0FFE [9, 9] [(0, 7)])).map
    (fun t => (faultOf t, memGet t.mem 0x0FFE)) = some ((some (.memoryOutOfRange 0x1000), 0x200), 9) := by decide

/-- `s` in a run whose UNDESCRIBED_OPS is standard. -/
def std (s : State) : State := { s with undescribedOps := .standard }

-- V-UND-7, V-UND-9; V-UND-8
theorem test_skp : (ran 0xE19E (keyWrite 4 true (std (regs [(1, 4)])))).map State.pc = some 0x204 := by decide
theorem test_skp_faults : (ran 0xE19E (std (regs [(1, 0x10)]))).map faultOf = some (some (.keyIndexOutOfRange 0x10), 0x200) := by decide
theorem test_sknp : (ran 0xE1A1 (keyWrite 4 true (std (regs [(1, 4)])))).map State.pc = some 0x202 ∧
    (ran 0xE1A1 (keyWrite 5 true (std (regs [(1, 4)])))).map State.pc = some 0x204 := by decide

-- V-UND-6, V-UND-4, V-UND-5
theorem test_ldFromDt : (ran 0xF307 (setDt (resetUnder .standard) 0x10)).map (shows [3]) = some ([0x10], 0x202) := by decide
theorem test_ldFont : (ran 0xF229 (std (regs [(2, 0x1A)]))).map State.index = some 0x082 := by decide
theorem test_ldHiFont : (ran 0xF230 (std (regs [(2, 3)]))).map State.index = some 0x0BE := by decide

-- V-UND-10, V-UND-11; V-UND-12, V-UND-13
theorem test_storeRegs : (ran 0xF155 (std (pointed 0x300 [] [(0, 1), (1, 2), (2, 3)]))).map
    (fun t => ([0x300, 0x301, 0x302].map (memGet t.mem), t.index)) = some ([1, 2, 0], 0x300) := by decide
theorem test_storeRegs_faults : (ran 0xF155 (std (pointed 0x0FFF [] [(0, 1)]))).map
    (fun t => (faultOf t, memGet t.mem 0x0FFF)) = some ((some (.memoryOutOfRange 0x1000), 0x200), 0) := by decide
theorem test_loadRegs : (ran 0xF165 (std (pointed 0x300 [1, 2, 3] [(2, 9)]))).map
    (fun t => (shows [0, 1, 2] t, t.index)) = some (([1, 2, 9], 0x202), 0x300) := by decide
theorem test_loadRegs_faults : (ran 0xF165 (std (pointed 0x0FFE [7] [(0, 5)]))).map
    (fun t => (faultOf t, getV t 0)) = some ((some (.memoryOutOfRange 0x0FFF), 0x200), 5) := by decide

-- V-UND-1, V-UND-2
theorem test_undescribed_refused : (ran 0xF029 State.reset).map (fun t => (t.refused, t.pc, t.index)) =
    some (some { reason := .undescribed, pcInst := 0x200, word := 0xF029 }, 0x200, 0) := by decide
theorem test_undescribed_noop : (ran 0xF029 (resetUnder .noop)).map (fun t => (t.refused, t.pc, t.index)) =
    some (none, 0x202, 0) := by decide

-- V-UND-14, V-UND-15, and R180 for the other SCHIP-only rows
theorem test_schip_refused : [0x00C5, 0x00FB, 0x00FC, 0x00FD, 0x00FE, 0x00FF, 0xF075, 0xF085].map
    (fun w => (ran w (resetUnder .standard)).map (fun t => (t.refused.isSome, t.pc))) =
    List.replicate 8 (some (true, 0x200)) := by decide
theorem test_schip_noop : [0x00C5, 0x00FB, 0x00FC, 0x00FD, 0x00FE, 0x00FF, 0xF075, 0xF085].map
    (fun w => (ran w (resetUnder .noop)).map (fun t => (t.refused.isSome, t.pc))) =
    List.replicate 8 (some (false, 0x202)) := by decide

-- V-UNM-1 to V-UNM-5, and R186 for the other rows of class 0x8
theorem test_unmapped : [0x0000, 0x0123, 0x8128, 0x8129, 0x812A, 0x812B, 0x812C, 0x812D, 0x812F, 0xE000, 0xF0FF].map
    (fun w => (ran w (regs [(1, 5), (2, 6)])).map (shows [1, 2, 0xF])) =
    List.replicate 11 (some ([5, 6, 0], 0x202)) := by decide
theorem test_unmapped_pulse : unmappedPulse (State.reset.withFetchWord 16 0x0123) = some (0x200, 0x0123) ∧
    unmappedPulse (State.reset.withFetchWord 16 0x00E0) = none := by decide

/-! ## The Step, the fault latch, the host -/

-- V-STEP-2, V-STEP-3, V-STEP-4
theorem test_step_odd_pc : (ran 0x6011 (setPc State.reset 0x301)).map (shows [0]) = some ([0x11], 0x303) := by decide
theorem test_step_last_word : (answered (step (setPc State.reset 0x0FFE))).map (fun t => (t.pc, t.fault)) =
    some (0x1000, none) := by decide
theorem test_step_fetch_fault : (answered (step (setPc State.reset 0x0FFF))).map (fun t => (t.pc, t.fault)) =
    some (0x0FFF, some { cause := .memoryOutOfRange 0x0FFF, pcInst := 0x0FFF, word := none }) := by decide

/-- The reset state with a fault latched and host moves pending. -/
def latched (moves : List HostMove) : State :=
  { takeFault (setDt State.reset 5) none .stackUnderflow with hostQueue := moves }

-- V-STEP-6, V-STEP-7, V-HOST-1
theorem test_latched_tick : (answered (step (latched [.timerTick]))).map (fun t => (t.dt, t.fault.isSome)) =
    some (5, true) := by decide
theorem test_latched_reset : (answered (step (latched [.reset]))).map (fun t => (t.dt, t.pc, t.fault)) =
    some (0, 0x200, none) := by decide
theorem test_latched_key : (answered (step (latched [.keyWrite 3 true]))).map (fun t => (getKey t 3, getKey t 4)) =
    some (true, false) := by decide

-- V-TICK-1, V-TICK-2
theorem test_tick : (fun t : State => (t.dt, t.st, soundActive t)) (timerTick (setSt (setDt State.reset 2) 1)) =
    (1, 0, false) ∧ (timerTick State.reset).dt = 0 := by decide

-- T-ROM-1, V-ROM-4
theorem test_loadRom : (loadRom [0x12, 0x34, 0x56] State.reset).1 = .loaded ∧
    [0x200, 0x201, 0x202, 0x203].map (memGet (launch .refuse [0x12, 0x34, 0x56]).mem) = [0x12, 0x34, 0x56, 0] ∧
    launch .refuse [] = State.reset := by decide

-- T-FONT-1 (the bytes R34 quotes)
theorem test_font : [0x050, 0x051, 0x054, 0x09B, 0x09F].map (memGet State.reset.mem) = [0xF0, 0x90, 0xF0, 0xF0, 0x80] := by decide

/-- Memory stays canonical: writing what an unlisted address reads as removes the cell. -/
theorem test_memory_canonical : memSet (memSet (memSet [] 0x301 7) 0x300 8) 0x301 0 = [(0x300, 8)] ∧
    memSet [] 0x050 0xF0 = [] := by decide

/-! ## Witnesses: for each obligation with hypotheses, a state and operands that meet them, at the ends of each range -/

theorem reset_good : Good State.reset := ⟨rfl, rfl⟩

/-- The state before the Step of a placed word. -/
def before (w : Nat) (s : State) : State := s.withFetchWord 16 w

theorem test_meets_DecodeOfEncode : (Instr.drw 0xF 0xF 0xF).wellFormed = true ∧
    (Instr.unmapped0nnn 0xFFF).wellFormed = true ∧ (Instr.unmappedFxnn 0xF 0xFF).wellFormed = true := by decide

/-- With the queue empty and with a STEP pending, at the last address a word can be fetched from. -/
theorem test_meets_StepRuns : Good (before 0x1FFE (setPc State.reset 0x0FFE)) ∧
    (before 0x1FFE (setPc State.reset 0x0FFE)).pc.toNat + 1 = 0x0FFF ∧
    decode [memGet (before 0x1FFE (setPc State.reset 0x0FFE)).mem 0x0FFE,
      memGet (before 0x1FFE (setPc State.reset 0x0FFE)).mem 0x0FFF] = .ok (.jp 0xFFE, []) ∧
    (Instr.jp 0xFFE).wellFormed = true ∧ (before 0x1FFE (setPc State.reset 0x0FFE)).hostQueue = [] ∧
    (∃ s : State, Good s ∧ s.hostQueue = .step :: [.timerTick] ∧
      decode [memGet s.mem s.pc.toNat, memGet s.mem (s.pc.toNat + 1)] = .ok (.unmapped0nnn 0, []) ∧
      (Instr.unmapped0nnn 0).wellFormed = true) := by
  refine ⟨⟨rfl, rfl⟩, rfl, by decide, rfl, rfl, { State.reset with hostQueue := [.step, .timerTick] }, ⟨rfl, rfl⟩, rfl, ?_⟩
  decide

theorem test_meets_FetchOutOfRange : Good (setPc State.reset 0x0FFF) ∧ (setPc State.reset 0x0FFF).hostQueue = [] ∧
    0x0FFF < (setPc State.reset 0x0FFF).pc.toNat + 1 := ⟨⟨rfl, rfl⟩, rfl, by decide⟩

theorem test_meets_FaultsArePrecise :
    exec .ret State.reset = .next (faulted State.reset .ret .stackUnderflow) ∧
    (faulted State.reset .ret .stackUnderflow).fault ≠ State.reset.fault := ⟨rfl, by decide⟩

theorem test_meets_LatchedCoreIsFrozen : ¬ Good (latched []) ∧ (latched []).hostQueue = [] ∧
    ¬ Good (latched [.step, .timerTick]) ∧ (latched [.step, .timerTick]).hostQueue = .step :: [.timerTick] ∧
    ¬ Good (latched [.timerTick]) ∧ (latched [.timerTick]).hostQueue = .timerTick :: [] ∧
    ¬ Good (takeRefusal State.reset 0x00FF) :=
  ⟨(fun h => nomatch h.1), rfl, (fun h => nomatch h.1), rfl, (fun h => nomatch h.1), rfl, (fun h => nomatch h.2)⟩

theorem test_meets_LatchesClearOnlyByReset :
    (∃ t, step (latched [.keyWrite 3 true]) = .next t) ∧ (latched [.keyWrite 3 true]).hostQueue.head? ≠ some .reset ∧
    (latched [.keyWrite 3 true]).fault.isSome = true ∧
    (∃ t, step (takeRefusal State.reset 0x00FF) = .next t) ∧
    (takeRefusal State.reset 0x00FF).hostQueue.head? ≠ some .reset ∧
    (takeRefusal State.reset 0x00FF).refused.isSome = true := by
  refine ⟨⟨_, rfl⟩, by decide, by decide, ⟨_, rfl⟩, by decide, by decide⟩

/-- The byte stored is the high one of the next word, and the low one of it at the top of memory. -/
theorem test_meets_StoreIsSeen :
    (∃ t w, writeByte State.reset 0x200 0x12 = .ok t ∧ State.reset.pc.toNat = 0x200 ∧ fetch t = .ok w) ∧
    (∃ t w, writeByte (setPc State.reset 0x0FFE) 0x0FFF 0x12 = .ok t ∧
      (setPc State.reset 0x0FFE).pc.toNat + 1 = 0x0FFF ∧ fetch t = .ok w) :=
  ⟨⟨_, _, rfl, rfl, rfl⟩, ⟨_, _, rfl, rfl, rfl⟩⟩

/-- V-JP-2. -/
theorem test_meets_SelfJump : runEnd (before 0x1200 State.reset) = some .selfJump ∧
    (before 0x1200 State.reset).hostQueue = [] := by decide

theorem test_meets_StepKeepsMemoryCanonical : Memory.wf State.reset.mem ∧
    (∃ t, step State.reset = .next t) := ⟨by decide, _, rfl⟩

/-- At the largest PC, and at the largest pushed value. -/
theorem test_meets_StepKeepsPcBounded : PcBounded (setPc (stacked 1 0 0x1000 State.reset) 0x10FE) ∧
    (∃ t, step (setPc (stacked 1 0 0x1000 State.reset) 0x10FE) = .next t) := by
  refine ⟨⟨by decide, ?_⟩, _, rfl⟩
  decide

/-- Each part, changed by an instruction the statement names. -/
theorem test_meets_OnlyNamedInstructionsWriteEachRegister :
    (∃ t, exec (.ldI 0x300) State.reset = .next t ∧ ¬ Keeps .index State.reset t) ∧
    (∃ t, exec (.ldDt 5) (regs [(5, 2)]) = .next t ∧ ¬ Keeps .dt (regs [(5, 2)]) t) ∧
    (∃ t, exec (.ldSt 5) (regs [(5, 2)]) = .next t ∧ ¬ Keeps .st (regs [(5, 2)]) t) ∧
    (∃ t, exec (.call 0x300) State.reset = .next t ∧ ¬ Keeps .stack State.reset t) ∧
    (∃ t, exec .cls (fbSet 31 63 true State.reset) = .next t ∧ ¬ Keeps .fb (fbSet 31 63 true State.reset) t) := by
  refine ⟨⟨_, rfl, ?_⟩, ⟨_, rfl, ?_⟩, ⟨_, rfl, ?_⟩, ⟨_, rfl, ?_⟩, ⟨_, rfl, ?_⟩⟩
  · show ¬ (_ = _)
    decide
  · show ¬ (_ = _)
    decide
  · show ¬ (_ = _)
    decide
  · exact fun h => absurd h.2 (by decide)
  · exact fun h => absurd (h 31 63) (by decide)

theorem test_meets_OnlyNamedInstructionsWriteMemoryOrDraw :
    (∃ t, exec (.ldBcd 0) (pointed 0x300 [] [(0, 0xFE)]) = .next t ∧
      ¬ Keeps .mem (pointed 0x300 [] [(0, 0xFE)]) t ∧ 0x2FF < (pointed 0x300 [] [(0, 0xFE)]).index.toNat) ∧
    (∃ t, exec (.rnd 3 0xFF) State.reset = .next t ∧ ¬ Keeps .rand State.reset t) := by
  refine ⟨⟨_, rfl, ?_, by decide⟩, ⟨_, rfl, ?_⟩⟩
  · exact fun h => absurd (h 0x300) (by decide)
  · exact fun h => absurd h.2 (by decide)

/-- A register that is not VF, and VF under an instruction that writes no flag. -/
theorem test_meets_RegistersChangeOnlyAsDestinationOrFlag :
    (∃ t, exec (.addReg 0 1) State.reset = .next t) ∧ (2 : Reg) ∉ destinations (.addReg 0 1) ∧ (2 : Reg) ≠ vf ∧
    (∃ t, exec (.addImm 0 1) State.reset = .next t) ∧ vf ∉ destinations (.addImm 0 1) ∧
    writesFlag (.addImm 0 1) = false := by
  refine ⟨⟨_, rfl⟩, by decide, by decide, ⟨_, rfl⟩, by decide, by decide⟩

theorem test_meets_ParametersAreFixed : ∃ t, step (latched [.reset]) = .next t := ⟨_, rfl⟩

theorem test_meets_ResetLeaves :
    ¬ (0x050 ≤ 0x04F ∧ 0x04F < 0x140) ∧ ¬ (0x050 ≤ 0x140 ∧ 0x140 < 0x140) ∧ 79 < 80 ∧ 159 < 160 := by decide

theorem test_meets_ResetRecreates : (latched [.reset, .step]).hostQueue = .reset :: [.step] := rfl

/-- The longest ROM that fits and the shortest that does not, with addresses on either side of the copy. -/
theorem test_meets_LoadRom :
    (List.replicate 3584 (0xAA : Byte)).length ≤ 0x1000 - 0x200 ∧
    0x1000 - 0x200 < (List.replicate 3585 (0xAA : Byte)).length ∧
    0x1FF < 0x200 ∧ 0x200 + [(0xAA : Byte)].length ≤ 0x201 ∧
    (latched [.loadRom [0xAA]]).hostQueue = .loadRom [0xAA] :: [] := by
  rw [List.length_replicate, List.length_replicate]
  decide

/-- A timer running and one at 0, and a TIMER_TICK pending with nothing latched. -/
theorem test_meets_TimerTick : Good (setDt State.reset 2) ∧ Good State.reset ∧
    (∃ s : State, Good s ∧ s.hostQueue = .timerTick :: [.step] ∧ s.dt = 2) :=
  ⟨⟨rfl, rfl⟩, ⟨rfl, rfl⟩, { setDt State.reset 2 with hostQueue := [.timerTick, .step] }, ⟨rfl, rfl⟩, rfl, rfl⟩

-- V-TICK-1, performed by step
theorem test_step_tick : (answered (step { setSt (setDt State.reset 2) 1 with hostQueue := [.timerTick, .step] })).map
    (fun t => (t.dt, t.st, t.hostQueue)) = some (1, 0, [.step]) := by decide

theorem test_meets_SoundActive : Good (setSt State.reset 1) ∧ (setSt State.reset 1).st = 1 := ⟨⟨rfl, rfl⟩, rfl⟩

theorem test_meets_HostWrites : (latched [.keyWrite 0xF true]).hostQueue = .keyWrite 0xF true :: [] ∧
    (latched [.fbSet 31 63 true]).hostQueue = .fbSet 31 63 true :: [] ∧
    (latched [.randPort 0xA7]).hostQueue = .randPort 0xA7 :: [] := ⟨rfl, rfl, rfl⟩

/-- The last window and the first that fails; the last byte and the first that fails. -/
theorem test_meets_WindowRead_ByteWrite :
    0x0FFE + 1 ≤ 0x0FFF ∧ 0x0FFF < 0x0FFF + 1 ∧ 0x0FFF ≤ 0x0FFF ∧ 0x0FFF < 0x1000 ∧
    readWindow State.reset 0x0FFE = .ok 0 ∧ readWindow State.reset 0x0FFF = .error (.memoryOutOfRange 0x0FFF) ∧
    (writeByte State.reset 0x0FFF 1).toOption.isSome = true ∧
    (writeByte State.reset 0x1000 1).toOption.isSome = false := by decide

/-- Full, one short of full, empty, and one entry: for StackIsABoundedLifo, CallAndRetMoveThroughTheStack and
CallAndRetFaultAtTheStackBounds. -/
theorem test_meets_Stack : (stacked 16 0 0 State.reset).sp.val = 16 ∧ (stacked 15 0 0 State.reset).sp.val < 16 ∧
    State.reset.sp.val = 0 ∧ (stacked 1 0 0 State.reset).sp.val = (0 : Fin 16).val + 1 ∧
    (stacked 16 0 0 State.reset).sp.val = (15 : Fin 16).val + 1 ∧ (0 : Fin 16).val < (15 : Fin 16).val := by decide

/-- The two clauses of R123, with x that is not VF and with x = VF. -/
theorem test_meets_AddRegister : (0 : Reg) ≠ vf ∧
    (ran 0x8014 (regs [(0, 0x80), (1, 0x7F)])).map (shows [0, 0xF]) = some ([0xFF, 0], 0x202) ∧
    (ran 0x8F14 (regs [(0xF, 0x10), (1, 1)])).map (shows [0xF]) = some ([0], 0x202) := by decide

theorem test_meets_Subtracts_Shifts : (0 : Reg) ≠ vf ∧ (0xF : Reg) = vf ∧
    (ran 0x80F5 (regs [(0, 9), (0xF, 1)])).map (shows [0, 0xF]) = some ([8, 1], 0x202) ∧
    (ran 0x8F0E (regs [(0xF, 0x7F)])).map (shows [0xF]) = some ([0], 0x202) := by decide

/-- The port filled, and the port empty. -/
theorem test_meets_Random : (randPort 0xA7 State.reset).rand = some 0xA7 ∧ State.reset.rand = none := ⟨rfl, rfl⟩

/-- Height 0 with I past the top of memory; the highest I a row of height 1, and of height 15, is read from; and the first
that fails (V-DRW-13, V-DRW-12, V-DRW-15). -/
theorem test_meets_Draw : ((0 : Nibble) = 0 ∨ (0x1000 : Word).toNat + (0 : Nibble).toNat ≤ 0x0FFF) ∧
    ((1 : Nibble) = 0 ∨ (0x0FFE : Word).toNat + (1 : Nibble).toNat ≤ 0x0FFF) ∧
    ((15 : Nibble) = 0 ∨ (0x0FF0 : Word).toNat + (15 : Nibble).toNat ≤ 0x0FFF) ∧
    (1 ≤ (1 : Nibble).toNat ∧ (0x0FFF : Word).toNat + (1 : Nibble).toNat > 0x0FFF) ∧
    (1 ≤ (15 : Nibble).toNat ∧ (0x0FF1 : Word).toNat + (15 : Nibble).toNat > 0x0FFF) ∧
    (ran 0xD010 (pointed 0x1000 [] [(0xF, 1)])).map (fun t => (faultOf t, getV t 0xF)) = some ((none, 0x202), 0) ∧
    (ran 0xD011 (pointed 0x0FFE [0x80] [])).map (pixels 0 [0, 1]) = some [true, false] ∧
    (ran 0xD011 (pointed 0x0FFF [] [])).map faultOf = some (some (.memoryOutOfRange 0x0FFF), 0x200) := by decide

/-- A key pressed, none pressed, and two states with the same keys. -/
theorem test_meets_WaitForKey : (∃ k, getKey (keyWrite 9 true (keyWrite 3 true State.reset)) k = true) ∧
    (∀ k, getKey State.reset k = false) ∧
    (∀ k, getKey (keyWrite 3 true State.reset) k = getKey (keyWrite 3 true (regs [(1, 5)])) k) ∧
    (∃ t, exec (.ldKey 1) (keyWrite 3 true State.reset) = .next t) ∧
    (∃ t, exec (.ldKey 1) (keyWrite 3 true (regs [(1, 5)])) = .next t) := by
  refine ⟨⟨3, by decide⟩, by decide, by decide, ⟨_, rfl⟩, ⟨_, rfl⟩⟩

/-- The last address the three digits fit at, and the first they do not (V-BCD-4, V-BCD-5). -/
theorem test_meets_Bcd : (pointed 0x0FFD [] []).index.toNat + 2 ≤ 0x0FFF ∧
    0x0FFF < (pointed 0x0FFE [] []).index.toNat + 2 ∧
    (ran 0xF033 (pointed 0x0FFD [] [(0, 7)])).map (fun t => memGet t.mem 0x0FFF) = some 7 := by decide

/-- The last register value that names a key, and the first that does not. -/
theorem test_meets_KeySkips : (std (regs [(1, 15)])).undescribedOps = .standard ∧
    (getV (std (regs [(1, 15)])) 1).toNat = (15 : Key).val ∧
    (std (regs [(1, 16)])).undescribedOps = .standard ∧ 15 < (getV (std (regs [(1, 16)])) 1).toNat := by decide

theorem test_meets_TimerReadAndGlyphPointers : (resetUnder .standard).undescribedOps = .standard := rfl

/-- The last I that V0..V1 fit at and the first they do not, for the store and for the load (V-UND-11, V-UND-13). -/
theorem test_meets_RegisterStoreLoad : (std (pointed 0x0FFE [] [])).undescribedOps = .standard ∧
    (std (pointed 0x0FFE [] [])).index.toNat + (1 : Reg).val ≤ 0x0FFF ∧
    0x0FFF < (std (pointed 0x0FFF [] [])).index.toNat + (1 : Reg).val ∧
    (std (pointed 0x0FFD [] [])).index.toNat + (1 : Reg).val + 1 ≤ 0x0FFF ∧
    0x0FFF < (std (pointed 0x0FFE [] [])).index.toNat + (1 : Reg).val + 1 := by decide

theorem test_meets_RefusedForms_NoopMode : State.reset.undescribedOps = .refuse ∧
    (Instr.ldFont 0).kind = .undescribed ∧ (Instr.exit).kind = .schip ∧
    (resetUnder .standard).undescribedOps = .standard ∧ (resetUnder .noop).undescribedOps = .noop := by decide

theorem test_meets_RefusalsArePrecise :
    exec .exit State.reset = .next (refusedAt State.reset .exit) ∧
    (refusedAt State.reset .exit).refused ≠ State.reset.refused := ⟨rfl, by decide⟩

theorem test_meets_UnmappedWords : (Instr.unmapped8xy8 1 2).kind = .unmapped ∧
    (Instr.unmapped0nnn 0x123).kind = .unmapped ∧ (Instr.unmappedFxnn 0 0xFF).kind = .unmapped := by decide

theorem test_meets_LaunchState : (List.replicate 3584 (0xAA : Byte)).length ≤ 3584 ∧ ([] : List Byte).length ≤ 3584 := by
  rw [List.length_replicate]
  decide

end Sys2Proof.Tests
end

section
/-! What a Step of one instruction can leave behind, said once for all of `exec`: the invariants and the frames below
are case analyses over `StepEnd` and do not unfold a meaning again. -/

namespace Sys2Proof.Machine

/-- The registers an instruction may change: its destinations, and VF if it writes a flag (10_state.md R22, R23). -/
def MayWrite (i : Instr) (r : Reg) : Prop := r ∈ destinations i ∨ (r = vf ∧ writesFlag i = true)

/-- Where PC can go without the call stack: stay, advance, skip, or jump (40_screen_and_control.md R102, R106;
44_timers_keys_bcd.md R162). -/
inductive PcTarget (s : State) : Word → Prop
  | stay : PcTarget s s.pc
  | next : PcTarget s (s.pc + 2)
  | skip : PcTarget s (s.pc + 2 + 2)
  | jump (nnn : Addr) (offset : Byte) : PcTarget s (jumpTarget nnn offset)

/-- `StepEnd s i t`: executing `i` from `s` can end in `t`. The first two cases are the latches; each of the others is
what a group of completed instructions does. -/
inductive StepEnd (s : State) : Instr → State → Prop
  | fault {i : Instr} (f : Fault) : StepEnd s i (takeFault s (some (encode i)) f)
  | refusal {i : Instr} : StepEnd s i (takeRefusal s (encode i))
  | move {i : Instr} {p : Word} (h : PcTarget s p) : StepEnd s i (setPc s p)
  | regs {i : Instr} {v : Vector Byte 16} (h : ∀ r : Reg, ¬ MayWrite i r → v[r.val] = getV s r) :
      StepEnd s i { advance s with v := v }
  | call {nnn : Addr} (h : s.sp.val < 16) :
      StepEnd s (.call nnn) { s with
        pc := addrOperand nnn, stack := s.stack.set s.sp.val (s.pc + 2), sp := ⟨s.sp.val + 1, by omega⟩ }
  | ret {k : Fin 16} (h : s.sp.val = k.val + 1) :
      StepEnd s .ret { s with pc := s.stack[k.val], sp := ⟨k.val, by omega⟩ }
  | cls : StepEnd s .cls (setFb (advance s) clearFb)
  | drw {x y : Reg} {n : Nibble} (fb : Framebuffer) (flag : Byte) :
      StepEnd s (.drw x y n) (setV (setFb (advance s) fb) vf flag)
  | index {i : Instr} (a : Word)
      (h : (∃ nnn, i = .ldI nnn) ∨ (∃ x, i = .ldFont x) ∨ (∃ x, i = .ldHiFont x)) :
      StepEnd s i (setIndex (advance s) a)
  | addI {x : Reg} (a : Word) (flag : Byte) : StepEnd s (.addI x) (setV (setIndex (advance s) a) vf flag)
  | rnd {x : Reg} {nn : Byte} (b : Byte) : StepEnd s (.rnd x nn) (setV (afterDraw (advance s)) x b)
  | ldDt {x : Reg} (b : Byte) : StepEnd s (.ldDt x) (setDt (advance s) b)
  | ldSt {x : Reg} (b : Byte) : StepEnd s (.ldSt x) (setSt (advance s) b)
  | store {i : Instr} (bytes : List Byte) (h : (∃ x, i = .ldBcd x) ∨ ∃ x, i = .storeRegs x)
      (fits : bytes = [] ∨ s.index.toNat + bytes.length ≤ 0x1000) :
      StepEnd s i (setMem (advance s) (memSetAll s.mem s.index.toNat bytes))

/-! ## The shapes of a completed Step -/

theorem StepEnd.of_advance (s : State) (i : Instr) : StepEnd s i (advance s) := .move .next

theorem StepEnd.of_skipIf (s : State) (i : Instr) (c : Bool) : StepEnd s i (skipIf (advance s) c) := by
  obtain ⟨-, h⟩ | ⟨-, h⟩ := skipIf_cases (advance s) c <;> rw [h]
  · exact .move .skip
  · exact .of_advance s i

/-- One register written after the advance. -/
theorem StepEnd.of_setV {s : State} {i : Instr} {x : Reg} (b : Byte) (hx : MayWrite i x) :
    StepEnd s i (setV (advance s) x b) := by
  refine .regs fun r hr => ?_
  have hne : r ≠ x := fun e => hr (e ▸ hx)
  exact (getV_setV_ne (advance s) b hne).trans (getV_advance s r)

/-- Two registers written in turn after the advance. -/
theorem StepEnd.of_setV_setV {s : State} {i : Instr} {x y : Reg} (b c : Byte) (hx : MayWrite i x) (hy : MayWrite i y) :
    StepEnd s i (setV (setV (advance s) x b) y c) := by
  refine .regs fun r hr => ?_
  have hrx : r ≠ x := fun e => hr (e ▸ hx)
  have hry : r ≠ y := fun e => hr (e ▸ hy)
  exact (getV_setV_ne _ c hry).trans ((getV_setV_ne _ b hrx).trans (getV_advance s r))

theorem mayWrite_of_mem {i : Instr} {r : Reg} (h : r ∈ destinations i) : MayWrite i r := .inl h

theorem mayWrite_vf {i : Instr} (h : writesFlag i = true) : MayWrite i vf := .inr ⟨rfl, h⟩

/-- A load of registers that completes writes none but those named (R179). -/
theorem loadEach_cases (rs : List Reg) {s t : State} (h : loadEach s rs = .ok t) :
    ∃ v, t = { s with v := v } ∧ ∀ r : Reg, r ∉ rs → v[r.val] = getV s r := by
  induction rs generalizing s with
  | nil => exact ⟨s.v, (Except.ok.inj h).symm, fun _ _ => rfl⟩
  | cons q rest ih =>
    rw [loadEach] at h
    cases hb : readByte s (s.index.toNat + q.val) with
    | error f => simp [hb] at h
    | ok b =>
      obtain ⟨v, rfl, hv⟩ := ih (by simpa [hb] using h)
      refine ⟨v, rfl, fun r hr => ?_⟩
      obtain ⟨hq, hrest⟩ := List.ne_and_not_mem_of_not_mem_cons hr
      exact (hv r hrest).trans (getV_setV_ne s b hq)

theorem StepEnd.of_loadEach {s t : State} {x : Reg} (h : loadEach (advance s) (regsUpTo x) = .ok t) :
    StepEnd s (.loadRegs x) t := by
  obtain ⟨v, rfl, hv⟩ := loadEach_cases _ h
  exact .regs fun r hr => hv r fun hm => hr (mayWrite_of_mem hm)

theorem StepEnd.of_writeBytes {s t : State} {i : Instr} {bytes : List Byte}
    (hi : (∃ x, i = .ldBcd x) ∨ ∃ x, i = .storeRegs x)
    (h : writeBytes (advance s) s.index.toNat bytes = .ok t) : StepEnd s i t := by
  obtain ⟨rfl, fits⟩ := writeBytes_cases _ _ _ _ h
  exact .store bytes hi fits

/-! ## The shared ends of a Step -/

/-- A handler that only completes in ways of `StepEnd` ends the Step in one of them, or in a fault. -/
theorem endStep_end {s : State} {i : Instr} {r : Except Fault State} (h : ∀ t, r = .ok t → StepEnd s i t) :
    ∃ t, endStep i s r = .next t ∧ StepEnd s i t := by
  obtain ⟨t, ht, he⟩ | ⟨f, -, he⟩ := endStep_cases i s r
  · exact ⟨t, he, h t ht⟩
  · exact ⟨_, he, .fault f⟩

theorem undescribedStep_end {s : State} {i : Instr} {r : Except Fault State} (h : ∀ t, r = .ok t → StepEnd s i t) :
    ∃ t, undescribedStep i s r = .next t ∧ StepEnd s i t := by
  obtain ⟨-, he⟩ | ⟨-, he⟩ | ⟨-, he⟩ := undescribedStep_cases i s r
  · exact ⟨_, he, .refusal⟩
  · exact ⟨_, he, .of_advance s i⟩
  · rw [he]
    exact endStep_end h

theorem schipStep_end (s : State) (i : Instr) : ∃ t, schipStep i s = .next t ∧ StepEnd s i t := by
  obtain ⟨-, he⟩ | ⟨-, he⟩ := schipStep_cases i s
  · exact ⟨_, he, .refusal⟩
  · exact ⟨_, he, .of_advance s i⟩

/-- To know what a mapped result can be, look at what is mapped. -/
theorem stepEnd_of_map {α : Type} {s : State} {i : Instr} {r : Except Fault α} {f : α → State}
    (h : ∀ a, r = .ok a → StepEnd s i (f a)) (t : State) (ht : r.map f = .ok t) : StepEnd s i t := by
  cases r with
  | error e => cases ht
  | ok a =>
    cases ht
    exact h a rfl

/-! ## The instructions that need an argument of their own -/

theorem execCall_end (nnn : Addr) (s : State) : ∃ t, execCall nnn s = .next t ∧ StepEnd s (.call nnn) t := by
  refine endStep_end (stepEnd_of_map fun u hu => ?_)
  obtain ⟨hsp, hp⟩ | ⟨-, hp⟩ := push_cases (advance s) (advance s).pc <;> rw [hp] at hu <;> cases hu
  exact StepEnd.call (s := s) hsp

theorem execRet_end (s : State) : ∃ t, execRet s = .next t ∧ StepEnd s .ret t := by
  refine endStep_end (stepEnd_of_map fun u hu => ?_)
  obtain ⟨k, hsp, hp⟩ | ⟨-, hp⟩ := pop_cases (advance s) <;> rw [hp] at hu <;> cases hu
  exact StepEnd.ret (s := s) hsp

theorem execLdKey_end (x : Reg) (s : State) : ∃ t, execLdKey x s = .next t ∧ StepEnd s (.ldKey x) t := by
  unfold execLdKey
  split
  · exact ⟨_, rfl, .of_setV _ (mayWrite_of_mem (by simp [destinations]))⟩
  · refine ⟨_, rfl, ?_⟩
    have rewound : (advance s).pc - 2 = s.pc := BitVec.add_sub_cancel s.pc 2
    rw [rewound]
    exact .move .stay

/-- Every instruction ends its Step in a next state, one of those `StepEnd` lists. -/
theorem exec_end (i : Instr) (s : State) : ∃ t, exec i s = .next t ∧ StepEnd s i t := by
  cases i with
  | cls => exact ⟨_, rfl, .cls⟩
  | ret => exact execRet_end s
  | call nnn => exact execCall_end nnn s
  | jp nnn => exact ⟨_, rfl, .move (.jump nnn 0)⟩
  | jpV0 nnn => exact ⟨_, rfl, .move (.jump nnn (getV s 0))⟩
  | seImm | sneImm | seReg | sneReg => exact ⟨_, rfl, .of_skipIf s _ _⟩
  | ldImm | addImm | ldReg | orReg | andReg | xorReg =>
    exact ⟨_, rfl, .of_setV _ (mayWrite_of_mem (by simp [destinations]))⟩
  | addReg =>
    exact ⟨_, rfl, .of_setV_setV _ _ (mayWrite_of_mem (by simp [destinations])) (mayWrite_vf rfl)⟩
  | sub | subn | shr | shl =>
    exact ⟨_, rfl, .of_setV_setV _ _ (mayWrite_vf rfl) (mayWrite_of_mem (by simp [destinations]))⟩
  | ldI nnn => exact ⟨_, rfl, .index _ (.inl ⟨nnn, rfl⟩)⟩
  | addI => exact ⟨_, rfl, .addI _ _⟩
  | rnd => exact ⟨_, rfl, .rnd _⟩
  | drw => exact endStep_end (stepEnd_of_map fun p _ => .drw p.1 _)
  | ldKey x => exact execLdKey_end x s
  | ldDt => exact ⟨_, rfl, .ldDt _⟩
  | ldSt => exact ⟨_, rfl, .ldSt _⟩
  | ldBcd x => exact endStep_end fun _ h => .of_writeBytes (.inl ⟨x, rfl⟩) h
  | skp | sknp => exact undescribedStep_end (stepEnd_of_map fun _ _ => .of_skipIf s _ _)
  | ldFromDt =>
    exact undescribedStep_end fun _ h => Except.ok.inj h ▸ .of_setV _ (mayWrite_of_mem (by simp [destinations]))
  | ldFont x => exact undescribedStep_end fun _ h => Except.ok.inj h ▸ .index _ (.inr (.inl ⟨x, rfl⟩))
  | ldHiFont x => exact undescribedStep_end fun _ h => Except.ok.inj h ▸ .index _ (.inr (.inr ⟨x, rfl⟩))
  | storeRegs x => exact undescribedStep_end fun _ h => .of_writeBytes (.inr ⟨x, rfl⟩) h
  | loadRegs => exact undescribedStep_end fun _ h => .of_loadEach h
  | scd | scr | scl | exit | low | high | saveFlags | restoreFlags => exact schipStep_end s _
  | unmapped8xy8 | unmapped8xy9 | unmapped8xyA | unmapped8xyB | unmapped8xyC | unmapped8xyD | unmapped8xyF
  | unmapped0nnn | unmappedExnn | unmappedFxnn => exact ⟨_, rfl, .of_advance s _⟩

theorem stepEnd_of_exec {i : Instr} {s t : State} (h : exec i s = .next t) : StepEnd s i t := by
  obtain ⟨u, hu, he⟩ := exec_end i s
  cases hu.symm.trans h
  exact he

end Sys2Proof.Machine
end

section
/-! What a Step of the core and a move of the host can leave behind. -/

namespace Sys2Proof.Machine

/-- `CycleEnd s t`: one Step of the core from `s` can end in `t` (30_encoding.md R80, 60_exceptions.md R201). -/
inductive CycleEnd (s : State) : State → Prop
  | latched (stopped : running s = false) : CycleEnd s s
  | fetchFault (idle : running s = true) (f : Fault) : CycleEnd s (takeFault s none f)
  | exec {i : Instr} {t : State} (idle : running s = true) (fetched : s.pc.toNat + 1 ≤ 0x0FFF) (h : StepEnd s i t) :
      CycleEnd s t

theorem pc_bound_of_fetch {s : State} {w : Word} (h : fetch s = .ok w) : s.pc.toNat + 1 ≤ 0x0FFF := by
  obtain ⟨hb, -⟩ | ⟨-, he⟩ := readWindow_cases s s.pc.toNat
  · exact hb
  · cases he.symm.trans h

theorem cycleEnd_of_cycle {s t : State} (h : cycle s = .next t) : CycleEnd s t := by
  obtain ⟨hr, w, hw, he⟩ | ⟨hr, f, -, he⟩ | ⟨hr, he⟩ := cycle_cases s <;> rw [he] at h
  · exact .exec hr (pc_bound_of_fetch hw) (stepEnd_of_exec h)
  · cases h
    exact .fetchFault hr f
  · cases h
    exact .latched hr

/-- The move `step` performs is the oldest pending one, or, with none pending, a STEP (20_memory.md R64). -/
theorem step_eq_hostMove (s : State) :
    step s = hostMove (s.hostQueue.headD .step) { s with hostQueue := s.hostQueue.tail } := by
  cases h : s.hostQueue with
  | nil =>
    have same : { s with hostQueue := [] } = s := by rw [← h]
    rw [step_idle h]
    exact (congrArg cycle same).symm
  | cons m rest => exact step_pending h

/-- A TimerTick writes DT and ST alone (60_exceptions.md R210). -/
theorem timerTick_eq (s : State) : ∃ d e, timerTick s = { s with dt := d, st := e } := by
  obtain ⟨-, h⟩ | ⟨-, h⟩ := timerTick_cases s
  · exact ⟨_, _, h⟩
  · exact ⟨s.dt, s.st, h⟩

/-- A ROM load writes the ROM's bytes, which end inside memory, or nothing (70_reset_and_hazards.md R222, R223). -/
theorem loadRom_eq (rom : List Byte) (s : State) :
    ∃ bytes : List Byte, 0x200 + bytes.length ≤ 0x1000 ∧
      (loadRom rom s).2 = setMem s (memSetAll s.mem 0x200 bytes) := by
  obtain ⟨hl, h⟩ | ⟨-, h⟩ := loadRom_cases rom s
  · exact ⟨rom, by omega, by rw [h]⟩
  · exact ⟨[], by simp, by rw [h]; rfl⟩

end Sys2Proof.Machine
end

section
/-! The canonical form of memory is kept by every move. -/

namespace Sys2Proof.Machine

theorem StepEnd.mem_wf {s t : State} {i : Instr} (h : StepEnd s i t) (hm : Memory.wf s.mem) : Memory.wf t.mem := by
  cases h with
  | store bytes _ fits =>
    rcases fits with rfl | fits
    · exact hm
    · exact memSetAll_wf bytes hm fits
  | _ => exact hm

theorem CycleEnd.mem_wf {s t : State} (h : CycleEnd s t) (hm : Memory.wf s.mem) : Memory.wf t.mem := by
  cases h with
  | exec _ _ he => exact he.mem_wf hm
  | _ => exact hm

theorem hostMove_mem_wf {m : HostMove} {s t : State} (h : hostMove m s = .next t) (hm : Memory.wf s.mem) :
    Memory.wf t.mem := by
  cases m with
  | step => exact (cycleEnd_of_cycle h).mem_wf hm
  | reset =>
    cases h
    exact reset_mem_wf
  | loadRom rom =>
    cases h
    obtain ⟨bytes, fits, ht⟩ := loadRom_eq rom s
    rw [ht]
    exact memSetAll_wf bytes hm fits
  | timerTick =>
    cases h
    obtain ⟨d, e, ht⟩ := timerTick_eq s
    rw [ht]
    exact hm
  | keyWrite | fbSet | randPort =>
    cases h
    exact hm

end Sys2Proof.Machine

namespace Sys2Proof
open Machine

/-- Settles O14: a move writes memory only by a store or a ROM load, and both end inside it. -/
theorem stepKeepsMemoryCanonical : Obligations.StepKeepsMemoryCanonical := by
  intro s t hm h
  rw [step_eq_hostMove] at h
  exact hostMove_mem_wf h hm

end Sys2Proof
end

section
/-! PC stays at most 0x10FE and every pushed value at most 0x1000 (10_state.md R26). A word is only fetched at PC at
most 0x0FFE, so an advance or a skip ends at most at 0x1002, and the largest target is that of Bnnn, 0x0FFF + 0xFF. -/

namespace Sys2Proof.Machine

theorem addrOperand_toNat (nnn : Addr) : (addrOperand nnn).toNat = nnn.toNat := by
  have := nnn.isLt
  rw [addrOperand, BitVec.toNat_setWidth]
  omega

theorem wideOperand_toNat (b : Byte) : (wideOperand b).toNat = b.toNat := by
  have := b.isLt
  rw [wideOperand, BitVec.toNat_setWidth]
  omega

theorem jumpTarget_toNat (nnn : Addr) (b : Byte) : (jumpTarget nnn b).toNat = nnn.toNat + b.toNat := by
  have := nnn.isLt
  have := b.isLt
  rw [jumpTarget, BitVec.toNat_add, addrOperand_toNat, wideOperand_toNat]
  omega

theorem pc_add_two_toNat {p : Word} (h : p.toNat ≤ 0x1000) : (p + 2).toNat = p.toNat + 2 := by
  rw [BitVec.toNat_add, show (2 : Word).toNat = 2 from rfl]
  omega

theorem PcTarget.le_bound {s : State} {p : Word} (h : PcTarget s p) (hpc : s.pc.toNat + 1 ≤ 0x0FFF) :
    p.toNat ≤ 0x10FE := by
  have hnext := pc_add_two_toNat (p := s.pc) (by omega)
  cases h with
  | stay => omega
  | next => omega
  | skip =>
    have := pc_add_two_toNat (p := s.pc + 2) (by omega)
    omega
  | jump nnn b =>
    have := jumpTarget_toNat nnn b
    have := nnn.isLt
    have := b.isLt
    omega

/-- Every entry below SP is at most 0x1000: the half of `PcBounded` about the call stack. -/
def StackBounded (s : State) : Prop := ∀ k : Fin 16, k.val < s.sp.val → s.stack[k.val].toNat ≤ 0x1000

/-- A push of a bounded value keeps the entries below SP bounded. -/
theorem stackBounded_push {s : State} {a : Word} (hs : StackBounded s) (ha : a.toNat ≤ 0x1000) (hsp : s.sp.val < 16)
    (k : Fin 16) (hk : k.val < s.sp.val + 1) : (s.stack.set s.sp.val a)[k.val].toNat ≤ 0x1000 := by
  by_cases he : s.sp.val = k.val
  · simpa [he] using ha
  · rw [Vector.getElem_set_ne _ _ he]
    exact hs k (by omega)

theorem StepEnd.pcBounded {s t : State} {i : Instr} (h : StepEnd s i t) (hpc : s.pc.toNat + 1 ≤ 0x0FFF)
    (hs : StackBounded s) : PcBounded t := by
  have hadv : (s.pc + 2).toNat ≤ 0x1000 := by
    rw [pc_add_two_toNat (by omega)]
    omega
  cases h with
  | fault | refusal => exact ⟨show s.pc.toNat ≤ 0x10FE by omega, hs⟩
  | move hp => exact ⟨hp.le_bound hpc, hs⟩
  | call hsp =>
    refine ⟨?_, stackBounded_push hs hadv hsp⟩
    rw [addrOperand_toNat]
    omega
  | @ret k hsp =>
    have hk : k.val < s.sp.val := by omega
    exact ⟨Nat.le_trans (hs k hk) (by decide), fun j hj => hs j (Nat.lt_trans hj hk)⟩
  | _ => exact ⟨Nat.le_trans hadv (by decide), hs⟩

theorem CycleEnd.pcBounded {s t : State} (h : CycleEnd s t) (hb : PcBounded s) : PcBounded t := by
  cases h with
  | exec _ hpc he => exact he.pcBounded hpc hb.2
  | _ => exact hb

theorem pcBounded_reset : PcBounded State.reset :=
  ⟨by decide, fun _ hk => absurd hk (Nat.not_lt_zero _)⟩

theorem hostMove_pcBounded {m : HostMove} {s t : State} (h : hostMove m s = .next t) (hb : PcBounded s) :
    PcBounded t := by
  cases m with
  | step => exact (cycleEnd_of_cycle h).pcBounded hb
  | reset =>
    cases h
    exact pcBounded_reset
  | loadRom rom =>
    cases h
    obtain ⟨bytes, -, ht⟩ := loadRom_eq rom s
    rw [ht]
    exact hb
  | timerTick =>
    cases h
    obtain ⟨d, e, ht⟩ := timerTick_eq s
    rw [ht]
    exact hb
  | keyWrite | fbSet | randPort =>
    cases h
    exact hb

end Sys2Proof.Machine

namespace Sys2Proof
open Machine

/-- Settles O15: by the shapes of a Step, with PC at most 0x0FFE wherever a word was fetched. -/
theorem stepKeepsPcBounded : Obligations.StepKeepsPcBounded := by
  intro s t hb h
  rw [step_eq_hostMove] at h
  exact hostMove_pcBounded h hb

/-- Settles O16: reset lists no cell, and nothing stands below SP. -/
theorem resetMeetsTheInvariants : Obligations.ResetMeetsTheInvariants :=
  ⟨reset_mem_wf, pcBounded_reset, rfl, rfl⟩

end Sys2Proof
end

section
/-! A recorded fault or refusal stays until RESET: a Step only happens while nothing is recorded. -/

namespace Sys2Proof.Machine

/-- What `s` has recorded in FAULT and REFUSED stands in `t` too. -/
def LatchesKept (s t : State) : Prop :=
  (∀ r, s.fault = some r → t.fault = some r) ∧ (∀ r, s.refused = some r → t.refused = some r)

theorem latchesKept_of_eq {s t : State} (hf : t.fault = s.fault) (hr : t.refused = s.refused) : LatchesKept s t :=
  ⟨fun _ h => hf.trans h, fun _ h => hr.trans h⟩

theorem latchesKept_of_running {s t : State} (h : running s = true) : LatchesKept s t := by
  obtain ⟨hf, hr⟩ := (running_iff s).1 h
  exact ⟨fun r h => by simp [hf] at h, fun r h => by simp [hr] at h⟩

theorem CycleEnd.latchesKept {s t : State} (h : CycleEnd s t) : LatchesKept s t := by
  cases h with
  | latched => exact latchesKept_of_eq rfl rfl
  | fetchFault idle | exec idle => exact latchesKept_of_running idle

theorem hostMove_latchesKept {m : HostMove} {s t : State} (h : hostMove m s = .next t) (hm : m ≠ .reset) :
    LatchesKept s t := by
  cases m with
  | step => exact (cycleEnd_of_cycle h).latchesKept
  | reset => exact absurd rfl hm
  | loadRom rom =>
    cases h
    obtain ⟨bytes, -, ht⟩ := loadRom_eq rom s
    rw [ht]
    exact latchesKept_of_eq rfl rfl
  | timerTick =>
    cases h
    obtain ⟨d, e, ht⟩ := timerTick_eq s
    rw [ht]
    exact latchesKept_of_eq rfl rfl
  | keyWrite | fbSet | randPort =>
    cases h
    exact latchesKept_of_eq rfl rfl

end Sys2Proof.Machine

namespace Sys2Proof
open Machine

/-- Settles O11: of the moves that write FAULT or REFUSED, RESET is excluded and a Step finds both none. -/
theorem latchesClearOnlyByReset : Obligations.LatchesClearOnlyByReset := by
  intro s t h hreset
  have hm : s.hostQueue.headD .step ≠ .reset := by
    cases hq : s.hostQueue with
    | nil => simp
    | cons m rest => simpa [hq] using hreset
  rw [step_eq_hostMove] at h
  exact hostMove_latchesKept (s := { s with hostQueue := s.hostQueue.tail }) h hm

end Sys2Proof
end

section
/-! The instructions that can change each part of the state, read off the shapes of a Step. -/

namespace Sys2Proof.Machine

theorem StepEnd.index_writers {s t : State} {i : Instr} (h : StepEnd s i t) (hk : ¬ Keeps .index s t) :
    (∃ nnn, i = .ldI nnn) ∨ (∃ x, i = .addI x) ∨ (∃ x, i = .ldFont x) ∨ (∃ x, i = .ldHiFont x) := by
  cases h with
  | index _ hi => exact hi.imp_right .inr
  | @addI x => exact .inr (.inl ⟨x, rfl⟩)
  | _ => exact absurd rfl hk

theorem StepEnd.dt_writers {s t : State} {i : Instr} (h : StepEnd s i t) (hk : ¬ Keeps .dt s t) :
    ∃ x, i = .ldDt x := by
  cases h with
  | @ldDt x => exact ⟨x, rfl⟩
  | _ => exact absurd rfl hk

theorem StepEnd.st_writers {s t : State} {i : Instr} (h : StepEnd s i t) (hk : ¬ Keeps .st s t) :
    ∃ x, i = .ldSt x := by
  cases h with
  | @ldSt x => exact ⟨x, rfl⟩
  | _ => exact absurd rfl hk

theorem StepEnd.stack_writers {s t : State} {i : Instr} (h : StepEnd s i t) (hk : ¬ Keeps .stack s t) :
    (∃ nnn, i = .call nnn) ∨ i = .ret := by
  cases h with
  | @call nnn => exact .inl ⟨nnn, rfl⟩
  | ret => exact .inr rfl
  | _ => exact absurd ⟨rfl, rfl⟩ hk

theorem StepEnd.fb_writers {s t : State} {i : Instr} (h : StepEnd s i t) (hk : ¬ Keeps .fb s t) :
    i = .cls ∨ ∃ x y n, i = .drw x y n := by
  cases h with
  | cls => exact .inl rfl
  | @drw x y n => exact .inr ⟨x, y, n, rfl⟩
  | _ => exact absurd (fun _ _ => rfl) hk

/-- A register that an instruction may not write reads as before (10_state.md R22, R23). -/
theorem StepEnd.getV_kept {s t : State} {i : Instr} (h : StepEnd s i t) {r : Reg} (hr : ¬ MayWrite i r) :
    getV t r = getV s r := by
  have ne_vf : writesFlag i = true → r ≠ vf := fun hf e => hr (e ▸ mayWrite_vf hf)
  cases h with
  | regs hv => exact hv r hr
  | drw | addI => exact getV_setV_ne _ _ (ne_vf rfl)
  | @rnd x nn b =>
    have ne_x : r ≠ x := fun e => hr (mayWrite_of_mem (by simp [destinations, e]))
    exact getV_setV_ne _ b ne_x
  | _ => rfl

end Sys2Proof.Machine

namespace Sys2Proof
open Machine

/-- Settles O17, one part of the state at a time. -/
theorem onlyNamedInstructionsWriteEachRegister : Obligations.OnlyNamedInstructionsWriteEachRegister := by
  intro i s t h
  have he := stepEnd_of_exec h
  exact ⟨he.index_writers, he.dt_writers, he.st_writers, he.stack_writers, he.fb_writers⟩

/-- Settles O19: a register that is no destination and no written flag is one the instruction may not write. -/
theorem registersChangeOnlyAsDestinationOrFlag : Obligations.RegistersChangeOnlyAsDestinationOrFlag := by
  intro i s t h r hd hf
  refine (stepEnd_of_exec h).getV_kept ?_
  rintro (hmem | ⟨rfl, hflag⟩)
  · exact hd hmem
  · exact Bool.false_ne_true ((hf rfl).symm.trans hflag)

end Sys2Proof
end

section
/-! What an address reads as after reset: the two fonts, and 0 elsewhere (10_state.md R33, R45). -/

namespace Sys2Proof.Machine

theorem memGet_reset (a : Nat) : memGet State.reset.mem a = unlistedByte a := rfl

theorem unlistedByte_outside {a : Nat} (h : ¬ (0x050 ≤ a ∧ a < 0x140)) : unlistedByte a = 0 := by
  unfold unlistedByte
  by_cases hlow : a < 0x050
  · rw [if_pos hlow]
  · rw [if_neg hlow, if_neg (show ¬ a < 0x0A0 by omega), if_neg (show ¬ a < 0x140 by omega)]

theorem unlistedByte_stdFont {j : Nat} (h : j < 80) : unlistedByte (0x050 + j) = Config.stdFont j := by
  unfold unlistedByte
  rw [if_neg (show ¬ 0x050 + j < 0x050 by omega), if_pos (show 0x050 + j < 0x0A0 by omega), Nat.add_sub_cancel_left]

theorem unlistedByte_extFont {j : Nat} (h : j < 160) : unlistedByte (0x0A0 + j) = Config.extFont j := by
  unfold unlistedByte
  rw [if_neg (show ¬ 0x0A0 + j < 0x050 by omega), if_neg (show ¬ 0x0A0 + j < 0x0A0 by omega),
    if_pos (show 0x0A0 + j < 0x140 by omega), Nat.add_sub_cancel_left]

theorem getV_reset (r : Reg) : getV State.reset r = 0 := by
  simp [getV, State.reset]

theorem fbGet_reset (row : Fin 32) (col : Fin 64) : fbGet State.reset row col = false := by
  simp [fbGet, State.reset]

theorem getKey_reset (k : Key) : getKey State.reset k = false := by
  simp [getKey, State.reset]

end Sys2Proof.Machine

namespace Sys2Proof
open Machine

/-- Settles O21: memory after reset reads as the unlisted bytes, and every other part as `State.reset` gives it. -/
theorem resetLeavesTheListedValues : Obligations.ResetLeavesTheListedValues :=
  ⟨rfl, rfl, getV_reset, rfl, rfl,
    fun a ha => (memGet_reset a).trans (unlistedByte_outside ha),
    fun _ hj => (memGet_reset _).trans (unlistedByte_stdFont hj),
    fun _ hj => (memGet_reset _).trans (unlistedByte_extFont hj),
    rfl, fbGet_reset, getKey_reset, rfl, rfl, rfl⟩

end Sys2Proof
end

section
/-! KEY_WRITE, FB_SET and RAND: the entry each changes, and what each leaves alone. -/

namespace Sys2Proof.Machine

theorem getKey_keyWrite (k j : Key) (b : Bool) (s : State) :
    getKey (keyWrite k b s) j = if j = k then b else getKey s j := by
  unfold getKey keyWrite
  by_cases h : j = k
  · subst h
    simp
  · have : k.val ≠ j.val := fun e => h (Fin.ext e.symm)
    simp [h, this]

theorem fbGet_fbSet (row r : Fin 32) (col c : Fin 64) (b : Bool) (s : State) :
    fbGet (fbSet row col b s) r c = if r = row ∧ c = col then b else fbGet s r c :=
  setPixel_get s.fb row r col c b

theorem keeps_refl (p : Part) (s : State) : Keeps p s s := by
  cases p with
  | stack | rand => exact ⟨rfl, rfl⟩
  | v | mem | keys => exact fun _ => rfl
  | fb => exact fun _ _ => rfl
  | pc | index | dt | st | fault | refused | params | queue => rfl

/-! Taking a move off the queue and performing it changes the queue and the one part the move writes. -/

theorem keyWrite_onlyChanges (k : Key) (b : Bool) (s : State) (q : List HostMove) :
    OnlyChanges [.keys, .queue] s (keyWrite k b { s with hostQueue := q }) := by
  intro p hp
  have kept := keeps_refl p s
  cases p with
  | keys | queue => simp at hp
  | _ => exact kept

theorem fbSet_onlyChanges (row : Fin 32) (col : Fin 64) (b : Bool) (s : State) (q : List HostMove) :
    OnlyChanges [.fb, .queue] s (fbSet row col b { s with hostQueue := q }) := by
  intro p hp
  have kept := keeps_refl p s
  cases p with
  | fb | queue => simp at hp
  | _ => exact kept

theorem randPort_onlyChanges (b : Byte) (s : State) (q : List HostMove) :
    OnlyChanges [.rand, .queue] s (randPort b { s with hostQueue := q }) := by
  intro p hp
  have kept := keeps_refl p s
  cases p with
  | rand | queue => simp at hp
  | _ => exact kept

end Sys2Proof.Machine

namespace Sys2Proof
open Machine

/-- Settles O26: a pending move of the three is performed whatever is latched, and writes its one entry. -/
theorem hostWritesChangeOneEntry : Obligations.HostWritesChangeOneEntry := by
  refine ⟨fun s k b rest h => ?_, fun s row col b rest h => ?_, fun s b rest h => ?_⟩
  · exact ⟨_, step_pending h, keyWrite_onlyChanges k b s rest, rfl, fun j => getKey_keyWrite k j b _⟩
  · exact ⟨_, step_pending h, fbSet_onlyChanges row col b s rest, rfl, fun r c => fbGet_fbSet row r col c b _⟩
  · exact ⟨_, step_pending h, randPort_onlyChanges b s rest, rfl, rfl, rfl⟩

end Sys2Proof
end

section
/-! Memory, the keypad, the parameter, the pending moves and the draw, read off the shapes of a Step. -/

namespace Sys2Proof.Machine

theorem StepEnd.mem_writers {s t : State} {i : Instr} (h : StepEnd s i t) (hk : ¬ Keeps .mem s t) :
    (∃ x, i = .ldBcd x) ∨ ∃ x, i = .storeRegs x := by
  cases h with
  | store _ hi => exact hi
  | _ => exact absurd (fun _ => rfl) hk

/-- A store begins at I, so no byte below I changes (20_memory.md R55). -/
theorem StepEnd.memGet_below_index {s t : State} {i : Instr} (h : StepEnd s i t) {a : Nat} (ha : a < s.index.toNat) :
    memGet t.mem a = memGet s.mem a := by
  cases h with
  | store bytes => exact memGet_memSetAll_outside bytes s.mem s.index.toNat a (.inl ha)
  | _ => rfl

/-- What the host alone writes reads as before in every shape (10_state.md R38, 70_reset_and_hazards.md R233). -/
theorem StepEnd.host_parts_kept {s t : State} {i : Instr} (h : StepEnd s i t) :
    Keeps .keys s t ∧ Keeps .params s t ∧ Keeps .queue s t := by
  cases h with
  | _ => exact ⟨fun _ => rfl, rfl, rfl⟩

theorem StepEnd.rand_writers {s t : State} {i : Instr} (h : StepEnd s i t) (hk : ¬ Keeps .rand s t) :
    ∃ x nn, i = .rnd x nn := by
  cases h with
  | @rnd x nn => exact ⟨x, nn, rfl⟩
  | _ => exact absurd ⟨rfl, rfl⟩ hk

end Sys2Proof.Machine

namespace Sys2Proof
open Machine

/-- Settles O18: only the shape of a store writes memory, from I up, and only that of Cxnn draws. -/
theorem onlyNamedInstructionsWriteMemoryOrDraw : Obligations.OnlyNamedInstructionsWriteMemoryOrDraw := by
  intro i s t h
  have he := stepEnd_of_exec h
  obtain ⟨keys, params, queue⟩ := he.host_parts_kept
  exact ⟨he.mem_writers, fun _ => he.memGet_below_index, keys, params, queue, he.rand_writers⟩

end Sys2Proof
end

section
/-! The byte store: reads of a window and of a byte, the write of one byte, and the fetch that reads it (20_memory.md R53,
R54, R55, R67). -/

namespace Sys2Proof.Machine

theorem readWindow_ok {s : State} {a : Nat} (h : a + 1 ≤ 0x0FFF) :
    readWindow s a = .ok (wordOfBytes (memGet s.mem a) (memGet s.mem (a + 1))) :=
  if_pos h

theorem readWindow_error {s : State} {a : Nat} (h : 0x0FFF < a + 1) :
    readWindow s a = .error (.memoryOutOfRange a) :=
  if_neg (Nat.not_le.2 h)

theorem setMem_onlyChanges (s : State) (m : List Host.Cell) : OnlyChanges [.mem] s (setMem s m) := by
  intro p hp
  have kept := keeps_refl p s
  cases p with
  | mem => simp at hp
  | _ => exact kept

theorem eq_of_writeByte {s t : State} {a : Nat} {b : Byte} (h : writeByte s a b = .ok t) :
    t = setMem s (memSet s.mem a b) := by
  by_cases ha : a ≤ 0x0FFF
  · exact (Except.ok.inj ((writeByte_ok b ha).symm.trans h)).symm
  · cases (writeByte_error b (Nat.lt_of_not_le ha)).symm.trans h

/-- A fetched word is the two bytes at PC and PC + 1 (30_encoding.md R71, R80). -/
theorem eq_of_fetch {s : State} {w : Word} (h : fetch s = .ok w) :
    w = wordOfBytes (memGet s.mem s.pc.toNat) (memGet s.mem (s.pc.toNat + 1)) :=
  (Except.ok.inj ((readWindow_ok (pc_bound_of_fetch h)).symm.trans h)).symm

/-- With nothing latched, a fetch that faults ends the Step at once (60_exceptions.md R201). -/
theorem cycle_of_fetch_error {s : State} {f : Fault} (hr : running s = true) (hf : fetch s = .error f) :
    cycle s = .next (takeFault s none f) := by
  simp [cycle, hr, hf]

end Sys2Proof.Machine

namespace Sys2Proof
open Machine

/-- Settles O28: the write is one `memSet`, which changes the byte at its address alone. -/
theorem byteWriteChangesOneCell : Obligations.ByteWriteChangesOneCell := by
  intro s a b
  refine ⟨fun ha => ⟨_, writeByte_ok b ha, ?_, fun c hc => ?_, setMem_onlyChanges s _⟩, writeByte_error b⟩
  · exact memGet_memSet_same s.mem a b
  · exact memGet_memSet_ne s.mem b hc

/-- Settles O7: the fetch faults, and nothing being latched, the Step takes that fault. -/
theorem fetchOutOfRangeFaults : Obligations.FetchOutOfRangeFaults := by
  intro s good idle hpc
  rw [step_idle idle]
  exact cycle_of_fetch_error ((running_iff s).2 good) (readWindow_error hpc)

/-- Settles O12: the fetched word is made of the bytes memory reads after the write, and the stored one is among them. -/
theorem storeIsSeenByTheNextFetch : Obligations.StoreIsSeenByTheNextFetch := by
  intro s t a b hwrite
  obtain rfl := eq_of_writeByte hwrite
  refine ⟨fun w hpc hw => ?_, fun w hpc hw => ?_⟩ <;> subst hpc <;> rw [eq_of_fetch hw]
  · exact (highByte_wordOfBytes _ _).trans (memGet_memSet_same s.mem _ b)
  · exact (lowByte_wordOfBytes _ _).trans (memGet_memSet_same s.mem _ b)

/-- Settles O27: both reads are of the one window. -/
theorem windowReadIsBigEndianAndBounded : Obligations.WindowReadIsBigEndianAndBounded := by
  intro s a
  exact ⟨fun h => ⟨_, readWindow_ok h, wordOfBytes_toNat _ _, readByte_ok h⟩,
    fun h => ⟨readWindow_error h, readByte_error h⟩⟩

end Sys2Proof
end

section
/-! The call stack: what a push leaves, what a pop takes, and that a pop undoes a push (20_memory.md R58, R59). -/

namespace Sys2Proof.Machine

theorem push_full {s : State} (a : Word) (h : s.sp.val = 16) : push s a = .error (.stackOverflow 16) := by
  obtain ⟨hlt, -⟩ | ⟨-, he⟩ := push_cases s a
  · omega
  · exact he

theorem pop_empty {s : State} (h : s.sp.val = 0) : pop s = .error .stackUnderflow := by
  obtain ⟨k, hk, -⟩ | ⟨-, he⟩ := pop_cases s
  · omega
  · exact he

theorem pop_succ {s : State} {k : Fin 16} (h : s.sp.val = k.val + 1) :
    pop s = .ok (s.stack[k.val], { s with sp := ⟨k.val, by omega⟩ }) := by
  obtain ⟨j, hj, he⟩ | ⟨h0, -⟩ := pop_cases s
  · obtain rfl : j = k := Fin.ext (by omega)
    exact he
  · omega

/-- The state a push onto a stack that is not full leaves (20_memory.md R58); `push_ok` ties it to `push`. -/
def pushed (s : State) (a : Word) (h : s.sp.val < 16) : State :=
  { s with stack := s.stack.set s.sp.val a, sp := ⟨s.sp.val + 1, by omega⟩ }

theorem push_ok {s : State} (a : Word) (h : s.sp.val < 16) : push s a = .ok (pushed s a h) := dif_pos h

theorem pushed_onlyChanges (s : State) (a : Word) (h : s.sp.val < 16) : OnlyChanges [.stack] s (pushed s a h) := by
  intro p hp
  have kept := keeps_refl p s
  cases p with
  | stack => simp at hp
  | _ => exact kept

theorem pushed_entry (s : State) (a : Word) (h : s.sp.val < 16) (k : Fin 16) :
    (pushed s a h).stack[k.val] = if k.val = s.sp.val then a else s.stack[k.val] := by
  simp only [pushed, Vector.getElem_set, eq_comm (a := k.val)]

/-- A pop right after a push gives the pushed value back, with SP as before the push. -/
theorem pop_pushed (s : State) (a : Word) (h : s.sp.val < 16) : ∃ u, pop (pushed s a h) = .ok (a, u) ∧ u.sp = s.sp := by
  have top : (pushed s a h).stack[s.sp.val] = a := (pushed_entry s a h ⟨s.sp.val, h⟩).trans (if_pos rfl)
  have popped := pop_succ (s := pushed s a h) (k := ⟨s.sp.val, h⟩) rfl
  rw [top] at popped
  exact ⟨_, popped, rfl⟩

end Sys2Proof.Machine

namespace Sys2Proof
open Machine

/-- Settles O29, by the four cases of SP: full and not full for a push, empty and not empty for a pop. -/
theorem stackIsABoundedLifo : Obligations.StackIsABoundedLifo := by
  intro s a
  refine ⟨push_full a, fun h => ⟨pushed s a h, push_ok a h, rfl, ?_⟩, pop_empty, fun _ => pop_succ⟩
  exact ⟨pushed_onlyChanges s a h, pushed_entry s a h, pop_pushed s a h⟩

end Sys2Proof
end

section
/-! Encode, then decode: every well-formed instruction is read back from its word (30_encoding.md R71, R83). -/

namespace Sys2Proof

theorem decode_encodeBytes (i : Instr) : decode (encodeBytes i) = .ok (decodeWord (encode i), []) := by
  simp [decode, encodeBytes]

/-! ## The rows that take a range of the field their class dispatches on: 00Cn and the three fallbacks (R77, R79) -/

theorem decodeWord_of_class0 {w : Word} (h : fieldClass w = 0x0) : decodeWord w = decodeClass0 w := by
  simp [decodeWord, h]

theorem fieldNnn_wordXyn_toNat (c : Nibble) (x y : Reg) (n : Nibble) :
    (fieldNnn (wordXyn c x y n)).toNat = x.val * 256 + y.val * 16 + n.toNat := by
  rw [fieldNnn_toNat, wordXyn_toNat]
  omega

theorem decodeClass0_scd {w : Word} (h : 0x0C0 ≤ (fieldNnn w).toNat ∧ (fieldNnn w).toNat ≤ 0x0CF) :
    decodeClass0 w = .scd (fieldN w) := by
  have notCls : fieldNnn w ≠ 0x0E0 := fun e => by simp [e] at h
  have notRet : fieldNnn w ≠ 0x0EE := fun e => by simp [e] at h
  rw [decodeClass0, if_neg notCls, if_neg notRet, if_pos h]

/-- The named rows of class 0x0, in the order the decoder tries them. -/
theorem namedIn0_iff (nnn : Addr) : namedIn0 nnn = true ↔
    nnn = 0x0E0 ∨ nnn = 0x0EE ∨ (0x0C0 ≤ nnn.toNat ∧ nnn.toNat ≤ 0x0CF) ∨
      nnn = 0x0FB ∨ nnn = 0x0FC ∨ nnn = 0x0FD ∨ nnn = 0x0FE ∨ nnn = 0x0FF := by
  simp only [namedIn0, BitVec.ofNat_eq_ofNat, Bool.or_eq_true, beq_iff_eq, ← BitVec.toNat_inj, BitVec.toNat_ofNat,
    Nat.reducePow, Nat.reduceMod, Bool.and_eq_true, decide_eq_true_eq]
  omega

theorem namedInE_iff (nn : Byte) : namedInE nn = true ↔ nn.toNat = 0x9E ∨ nn.toNat = 0xA1 := by
  simp [namedInE, ← BitVec.toNat_inj]

theorem decodeClass0_fallback {w : Word} (h : ¬ namedIn0 (fieldNnn w) = true) :
    decodeClass0 w = .unmapped0nnn (fieldNnn w) := by
  simp only [namedIn0_iff, not_or] at h
  simp only [decodeClass0, h, if_false]

theorem decodeClassE_fallback {w : Word} (h : ¬ namedInE (fieldNn w) = true) :
    decodeClassE w = .unmappedExnn (fieldX w) (fieldNn w) := by
  rw [namedInE_iff] at h
  unfold decodeClassE
  split
  case h_3 => rfl
  all_goals next named => simp [named] at h

theorem decodeClassF_fallback {w : Word} (h : ¬ namedInF (fieldNn w) = true) :
    decodeClassF w = .unmappedFxnn (fieldX w) (fieldNn w) := by
  unfold namedInF at h
  unfold decodeClassF
  split
  case h_13 => rfl
  all_goals next named => simp [named] at h

/-! ## Every row -/

theorem decodeWord_encode {i : Instr} (h : i.wellFormed = true) : decodeWord (encode i) = i := by
  cases i with
  | cls | ret | scr | scl | exit | low | high => rfl
  | jp | call | seImm | sneImm | seReg | ldImm | addImm | sneReg | ldI | jpV0 | rnd | drw =>
    simp [encode, decodeWord]
  | ldReg | orReg | andReg | xorReg | addReg | sub | shr | subn | shl
  | unmapped8xy8 | unmapped8xy9 | unmapped8xyA | unmapped8xyB | unmapped8xyC | unmapped8xyD | unmapped8xyF =>
    simp [encode, decodeWord, decodeClass8]
  | skp | sknp => simp [encode, decodeWord, decodeClassE]
  | ldKey | ldDt | ldSt | addI | ldBcd | ldFromDt | ldFont | ldHiFont | storeRegs | loadRegs | saveFlags | restoreFlags =>
    simp [encode, decodeWord, decodeClassF]
  | scd n =>
    have nnn : (fieldNnn (wordXyn 0x0 0 0xC n)).toNat = 0x0C0 + n.toNat := fieldNnn_wordXyn_toNat 0x0 0 0xC n
    rw [encode, decodeWord_of_class0 (fieldClass_wordXyn _ _ _ _), decodeClass0_scd (by omega), fieldN_wordXyn]
  | unmapped0nnn nnn =>
    have unnamed : ¬ namedIn0 nnn = true := by simpa [Instr.wellFormed] using h
    simp [encode, decodeWord, decodeClass0_fallback, unnamed]
  | unmappedExnn x nn =>
    have unnamed : ¬ namedInE nn = true := by simpa [Instr.wellFormed] using h
    simp [encode, decodeWord, decodeClassE_fallback, unnamed]
  | unmappedFxnn x nn =>
    have unnamed : ¬ namedInF nn = true := by simpa [Instr.wellFormed] using h
    simp [encode, decodeWord, decodeClassF_fallback, unnamed]

/-- Settles O4: the two bytes make up the instruction's word, which its class reads back. -/
theorem decodeOfEncodeIsTheInstruction : Obligations.DecodeOfEncodeIsTheInstruction := by
  intro i h
  rw [decode_encodeBytes, decodeWord_encode h]

end Sys2Proof
end

section
/-! Decode, then encode: the reading of a word is well-formed and loses no bit (30_encoding.md R75, R83). -/

namespace Sys2Proof

/-! ## A word is made up of its fields -/

theorem wordXyn_fields {w : Word} {c n : Nibble} (hc : (fieldClass w).toNat = c.toNat)
    (hn : (fieldN w).toNat = n.toNat) : wordXyn c (fieldX w) (fieldY w) n = w := by
  apply BitVec.eq_of_toNat_eq
  rw [wordXyn_toNat, ← hc, ← hn, fieldX_val, fieldY_val, fieldClass_toNat, fieldN_toNat]
  omega

theorem wordXnn_fields {w : Word} {c : Nibble} {nn : Byte} (hc : (fieldClass w).toNat = c.toNat)
    (hnn : (fieldNn w).toNat = nn.toNat) : wordXnn c (fieldX w) nn = w := by
  apply BitVec.eq_of_toNat_eq
  rw [wordXnn_toNat, ← hc, ← hnn, fieldX_val, fieldClass_toNat, fieldNn_toNat]
  omega

theorem wordNnn_fields {w : Word} {c : Nibble} {nnn : Addr} (hc : (fieldClass w).toNat = c.toNat)
    (hnnn : fieldNnn w = nnn) : wordNnn c nnn = w := by
  apply BitVec.eq_of_toNat_eq
  rw [wordNnn_toNat, ← hc, ← hnnn, fieldClass_toNat, fieldNnn_toNat]
  omega

/-! ## Every class -/

/-- `i` is a well-formed instruction whose word is `w`. -/
def IsReadingOf (i : Instr) (w : Word) : Prop := i.wellFormed = true ∧ encode i = w

theorem decodeClass0_isReadingOf {w : Word} (hc : (fieldClass w).toNat = 0x0) : IsReadingOf (decodeClass0 w) w := by
  have word {nnn : Addr} (h : fieldNnn w = nnn) : wordNnn 0x0 nnn = w := wordNnn_fields hc h
  unfold decodeClass0
  split_ifs with cls ret scd scr scl exit low high
  · exact ⟨rfl, word cls⟩
  · exact ⟨rfl, word ret⟩
  · rw [fieldNnn_toNat] at scd
    have hx : fieldX w = 0 := Fin.ext (by rw [fieldX_val, Fin.val_zero]; omega)
    have hy : fieldY w = 0xC := Fin.ext (by rw [fieldY_val]; show _ = 0xC; omega)
    have reassembled := wordXyn_fields (c := 0x0) hc rfl
    rw [hx, hy] at reassembled
    exact ⟨rfl, reassembled⟩
  · exact ⟨rfl, word scr⟩
  · exact ⟨rfl, word scl⟩
  · exact ⟨rfl, word exit⟩
  · exact ⟨rfl, word low⟩
  · exact ⟨rfl, word high⟩
  · have unnamed : ¬ namedIn0 (fieldNnn w) = true := by
      simp only [namedIn0_iff, cls, ret, scd, scr, scl, exit, low, high, or_self, not_false_eq_true]
    exact ⟨by simpa [Instr.wellFormed] using unnamed, word rfl⟩

theorem decodeClass8_isReadingOf {w : Word} (hc : (fieldClass w).toNat = 0x8) : IsReadingOf (decodeClass8 w) w := by
  have bound := (fieldN w).isLt
  unfold decodeClass8
  split
  case h_16 =>
    have hn : (fieldN w).toNat = 0xF := by grind
    exact ⟨rfl, wordXyn_fields hc hn⟩
  all_goals next hn => exact ⟨rfl, wordXyn_fields hc hn⟩

theorem decodeClassE_isReadingOf {w : Word} (hc : (fieldClass w).toNat = 0xE) : IsReadingOf (decodeClassE w) w := by
  unfold decodeClassE
  split
  case h_3 notSkp notSknp =>
    have unnamed : ¬ namedInE (fieldNn w) = true := fun h => ((namedInE_iff _).1 h).elim notSkp notSknp
    exact ⟨by simpa [Instr.wellFormed] using unnamed, wordXnn_fields hc rfl⟩
  all_goals next hnn => exact ⟨rfl, wordXnn_fields hc hnn⟩

theorem decodeClassF_isReadingOf {w : Word} (hc : (fieldClass w).toNat = 0xF) : IsReadingOf (decodeClassF w) w := by
  unfold decodeClassF
  split
  case h_13 =>
    refine ⟨?_, wordXnn_fields hc rfl⟩
    simp_all [Instr.wellFormed, namedInF]
  all_goals next hnn => exact ⟨rfl, wordXnn_fields hc hnn⟩

theorem decodeWord_isReadingOf (w : Word) : IsReadingOf (decodeWord w) w := by
  have bound := (fieldClass w).isLt
  unfold decodeWord
  split
  case h_1 hc => exact decodeClass0_isReadingOf hc
  case h_9 hc => exact decodeClass8_isReadingOf hc
  case h_15 hc => exact decodeClassE_isReadingOf hc
  case h_16 =>
    have hc : (fieldClass w).toNat = 0xF := by grind
    exact decodeClassF_isReadingOf hc
  case h_2 hc | h_3 hc | h_11 hc | h_12 hc => exact ⟨rfl, wordNnn_fields hc rfl⟩
  case h_4 hc | h_5 hc | h_7 hc | h_8 hc | h_13 hc => exact ⟨rfl, wordXnn_fields hc rfl⟩
  case h_6 hc | h_10 hc | h_14 hc => exact ⟨rfl, wordXyn_fields hc rfl⟩

/-- Settles O5: class by class, the fields the decoder keeps make up the whole word. -/
theorem encodeOfDecodeIsTheWord : Obligations.EncodeOfDecodeIsTheWord := fun w => decodeWord_isReadingOf w

end Sys2Proof
end

section
/-! The fields of a word as masks and shifts of it (30_encoding.md R72), and the words the spec writes out. -/

namespace Sys2Proof
open Machine

theorem zeroExtend_extract (w : Word) (lo : Nat) {len : Nat} (h : len < 16) :
    (w.extractLsb' lo len).zeroExtend 16 = w >>> lo &&& BitVec.ofNat 16 (2 ^ len - 1) := by
  have fits : 2 ^ len < 2 ^ 16 := Nat.pow_lt_pow_right (by decide) h
  have field : w.toNat / 2 ^ lo % 2 ^ len < 2 ^ len := Nat.mod_lt _ (Nat.two_pow_pos len)
  apply BitVec.eq_of_toNat_eq
  rw [BitVec.zeroExtend, BitVec.toNat_setWidth, extract_toNat, Nat.mod_eq_of_lt (field.trans fits),
    BitVec.toNat_and, BitVec.toNat_ushiftRight, Nat.shiftRight_eq_div_pow, BitVec.toNat_ofNat,
    Nat.mod_eq_of_lt (show 2 ^ len - 1 < 2 ^ 16 by omega), Nat.and_two_pow_sub_one_eq_mod]

/-- A field as R72 gives it: first the mask, then the shift. -/
theorem extract_toNat_eq_mask {w mask : Word} {lo len : Nat} (h : len < 16)
    (hm : mask >>> lo = BitVec.ofNat 16 (2 ^ len - 1)) :
    (w.extractLsb' lo len).toNat = ((w &&& mask) >>> lo).toNat := by
  rw [BitVec.ushiftRight_and_distrib, hm, ← zeroExtend_extract w lo h, BitVec.zeroExtend,
    BitVec.toNat_setWidth_of_le h.le]

theorem shiftRight_and_shiftLeft (w m : Word) (k : Nat) : (w >>> k &&& m) <<< k = w &&& m <<< k := by
  ext i hi
  by_cases hk : i < k
  · simp [hk]
  · have unshifted : k + (i - k) = i := by omega
    simp [hk, BitVec.getLsbD_eq_getElem, unshifted, hi]

/-- Settles O1: each field is an extracted run of bits, and so a mask and a shift. -/
theorem fieldsAreTheMasksOfTheWord : Obligations.FieldsAreTheMasksOfTheWord := by
  intro w
  have low {len : Nat} (h : len < 16) := zeroExtend_extract w 0 h
  refine ⟨?_, extract_toNat_eq_mask (by decide) rfl, extract_toNat_eq_mask (by decide) rfl,
    low (by decide), low (by decide), low (by decide)⟩
  rw [fieldClass, zeroExtend_extract w 12 (by decide), shiftRight_and_shiftLeft]
  rfl

/-- Settles O2: the fields and readings are evaluated, and the operand that plays no part is one `exec` does not pass on. -/
theorem workedDecodeExample : Obligations.WorkedDecodeExample :=
  ⟨by decide, ⟨by decide, fun _ _ => rfl⟩, ⟨by decide, fun _ _ => rfl⟩, ⟨by decide, by decide, fun _ => rfl⟩, by decide⟩

/-- Settles O3: twenty-three closed words, each evaluated by the decoder. -/
theorem encodingTableWordsDecode : Obligations.EncodingTableWordsDecode := by
  unfold Obligations.EncodingTableWordsDecode
  decide

end Sys2Proof
end

section
/-! A Step runs what the two bytes at PC decode to, and every move answers a next state (30_encoding.md R80, R85). -/

namespace Sys2Proof.Machine

theorem decodeWord_of_decode {hi lo : Byte} {i : Instr} {rest : List Byte} (h : decode [hi, lo] = .ok (i, rest)) :
    decodeWord (wordOfBytes hi lo) = i := by
  cases h
  rfl

theorem cycle_of_fetch_ok {s : State} {w : Word} (hr : running s = true) (hf : fetch s = .ok w) :
    cycle s = exec (decodeWord w) s := by
  simp [cycle, hr, hf]

theorem cycle_eq_exec {s : State} {i : Instr} {rest : List Byte} (good : Good s) (hpc : s.pc.toNat + 1 ≤ 0x0FFF)
    (reads : decode [memGet s.mem s.pc.toNat, memGet s.mem (s.pc.toNat + 1)] = .ok (i, rest)) : cycle s = exec i s := by
  rw [cycle_of_fetch_ok ((running_iff s).2 good) (readWindow_ok hpc), decodeWord_of_decode reads]

theorem exec_next (i : Instr) (s : State) : ∃ t, exec i s = .next t :=
  (exec_end i s).imp fun _ h => h.1

theorem cycle_next (s : State) : ∃ t, cycle s = .next t := by
  obtain ⟨-, w, -, h⟩ | ⟨-, f, -, h⟩ | ⟨-, h⟩ := cycle_cases s
  · rw [h]
    exact exec_next _ s
  · exact ⟨_, h⟩
  · exact ⟨_, h⟩

theorem hostMove_next (m : HostMove) (s : State) : ∃ t, hostMove m s = .next t := by
  cases m with
  | step => exact cycle_next s
  | reset | loadRom | timerTick | keyWrite | fbSet | randPort => exact ⟨_, rfl⟩

end Sys2Proof.Machine

namespace Sys2Proof
open Machine

/-- Settles O6: with a STEP pending, the Step is that of the state with the move taken off. -/
theorem stepRunsTheDecodedInstruction : Obligations.StepRunsTheDecodedInstruction := by
  intro s i good hpc reads _
  refine ⟨fun idle => ?_, fun rest pending => ?_⟩
  · rw [step_idle idle]
    exact cycle_eq_exec good hpc reads
  · rw [step_pending pending]
    exact cycle_eq_exec (s := { s with hostQueue := rest }) good hpc reads

/-- Settles O8: a step is a move of the host, and no move and no instruction answers anything but a next state. -/
theorem everyStepAnswersANextState : Obligations.EveryStepAnswersANextState := by
  refine ⟨fun s => ?_, exec_next⟩
  rw [step_eq_hostMove]
  exact hostMove_next _ _

end Sys2Proof
end

section
/-! Frames put together: what changes over two updates in turn is what either changes. -/

namespace Sys2Proof.Machine

theorem keeps_trans {p : Part} {s t u : State} (h : Keeps p s t) (k : Keeps p t u) : Keeps p s u := by
  cases p with
  | stack | rand => exact ⟨k.1.trans h.1, k.2.trans h.2⟩
  | v | mem | keys => exact fun a => (k a).trans (h a)
  | fb => exact fun row col => (k row col).trans (h row col)
  | pc | index | dt | st | fault | refused | params | queue => exact k.trans h

theorem onlyChanges_trans {ps qs : List Part} {s t u : State} (h : OnlyChanges ps s t) (k : OnlyChanges qs t u) :
    OnlyChanges (ps ++ qs) s u := fun p hp =>
  keeps_trans (h p fun hm => hp (List.mem_append_left qs hm)) (k p fun hm => hp (List.mem_append_right ps hm))

theorem setPc_onlyChanges (s : State) (a : Word) : OnlyChanges [.pc] s (setPc s a) := by
  intro p hp
  have kept := keeps_refl p s
  cases p with
  | pc => simp at hp
  | _ => exact kept

theorem setFb_onlyChanges (s : State) (f : Framebuffer) : OnlyChanges [.fb] s (setFb s f) := by
  intro p hp
  have kept := keeps_refl p s
  cases p with
  | fb => simp at hp
  | _ => exact kept

/-- SP is of the same part as the entries below it. -/
theorem sp_onlyChanges (s : State) (n : Fin 17) : OnlyChanges [.stack] s { s with sp := n } := by
  intro p hp
  have kept := keeps_refl p s
  cases p with
  | stack => simp at hp
  | _ => exact kept

end Sys2Proof.Machine
end

section
/-! CALL and RET: each is a push or a pop of the advanced state, and then a write of PC (40_screen_and_control.md R101,
R105). -/

namespace Sys2Proof.Machine

theorem exec_call (nnn : Addr) (s : State) :
    exec (.call nnn) s =
      endStep (.call nnn) s ((push (advance s) (s.pc + 2)).map fun t => setPc t (addrOperand nnn)) := rfl

theorem exec_ret (s : State) : exec .ret s = endStep .ret s ((pop (advance s)).map fun p => setPc p.2 p.1) := rfl

theorem exec_call_of_room {s : State} (nnn : Addr) (h : s.sp.val < 16) :
    exec (.call nnn) s = .next (setPc (pushed s (s.pc + 2) h) (addrOperand nnn)) := by
  rw [exec_call, push_ok (s := advance s) _ h]
  rfl

theorem exec_ret_of_entry {s : State} {k : Fin 16} (h : s.sp.val = k.val + 1) :
    exec .ret s = .next (setPc { s with sp := ⟨k.val, by omega⟩ } s.stack[k.val]) := by
  rw [exec_ret, pop_succ (s := advance s) h]
  rfl

theorem exec_call_of_full {s : State} (nnn : Addr) (h : s.sp.val = 16) :
    exec (.call nnn) s = .next (faulted s (.call nnn) (.stackOverflow 16)) := by
  rw [exec_call, push_full (s := advance s) _ h]
  rfl

theorem exec_ret_of_empty {s : State} (h : s.sp.val = 0) :
    exec .ret s = .next (faulted s .ret .stackUnderflow) := by
  rw [exec_ret, pop_empty (s := advance s) h]
  rfl

end Sys2Proof.Machine

namespace Sys2Proof
open Machine

/-- Settles O31: the push and the pop complete, each changing the stack alone, and then PC is written. -/
theorem callAndRetMoveThroughTheStack : Obligations.CallAndRetMoveThroughTheStack := by
  refine ⟨fun nnn s room => ?_, fun s k entry => ?_⟩
  · have frame := onlyChanges_trans (pushed_onlyChanges s (s.pc + 2) room) (setPc_onlyChanges _ (addrOperand nnn))
    exact ⟨_, exec_call_of_room nnn room, addrOperand_toNat nnn, rfl, pushed_entry s (s.pc + 2) room, frame⟩
  · have frame := onlyChanges_trans (sp_onlyChanges s ⟨k.val, by omega⟩) (setPc_onlyChanges _ s.stack[k.val])
    exact ⟨_, exec_ret_of_entry entry, rfl, rfl, fun _ _ => rfl, frame⟩

/-- Settles O32: the push or the pop fails, and the Step takes its fault from the state it began in. -/
theorem callAndRetFaultAtTheStackBounds : Obligations.CallAndRetFaultAtTheStackBounds :=
  ⟨fun nnn _ full => exec_call_of_full nnn full, fun _ empty => exec_ret_of_empty empty⟩

end Sys2Proof
end

section
/-! The skips and the jumps, which write PC alone, and clear-screen (40_screen_and_control.md R100, R102, R106). -/

namespace Sys2Proof.Machine

/-- A skip writes PC once: four bytes on or two (R106). -/
theorem skipIf_advance (s : State) (c : Bool) :
    skipIf (advance s) c = setPc s (if c then s.pc + 4 else s.pc + 2) := by
  cases c with
  | false => rfl
  | true => exact congrArg (setPc s) (BitVec.add_assoc s.pc 2 2)

theorem skipIf_onlyChanges (s : State) (c : Bool) : OnlyChanges [.pc] s (skipIf (advance s) c) := by
  rw [skipIf_advance]
  exact setPc_onlyChanges s _

theorem skipIf_beq_pc (s : State) (a b : Byte) :
    (skipIf (advance s) (a == b)).pc = if a = b then s.pc + 4 else s.pc + 2 := by
  simp [skipIf_advance]

theorem skipIf_bne_pc (s : State) (a b : Byte) :
    (skipIf (advance s) (a != b)).pc = if a = b then s.pc + 2 else s.pc + 4 := by
  simp [skipIf_advance]

theorem fbGet_clearFb (s : State) (row : Fin 32) (col : Fin 64) : fbGet (setFb s clearFb) row col = false := by
  simp [fbGet, clearFb]

end Sys2Proof.Machine

namespace Sys2Proof
open Machine

/-- Settles O34: each of the four is a skip on a comparison of two bytes; N is no operand of it. -/
theorem skipsAdvanceByTwoOrFour : Obligations.SkipsAdvanceByTwoOrFour := by
  intro x y n nn s
  have frame := skipIf_onlyChanges s
  have onEqual := skipIf_beq_pc s
  have onUnequal := skipIf_bne_pc s
  exact ⟨⟨_, rfl, frame _, onEqual _ _⟩, ⟨_, rfl, frame _, onUnequal _ _⟩,
    ⟨_, rfl, frame _, onEqual _ _⟩, ⟨_, rfl, frame _, onUnequal _ _⟩⟩

/-- Settles O33: the target as a number is the sum of nnn and the offset, which is 0 for 1nnn. -/
theorem jumpsSetThePc : Obligations.JumpsSetThePc :=
  ⟨fun nnn s => ⟨_, rfl, jumpTarget_toNat nnn 0, setPc_onlyChanges s _⟩,
    fun nnn s => ⟨_, rfl, jumpTarget_toNat nnn (getV s 0), setPc_onlyChanges s _⟩⟩

/-- Settles O30: the framebuffer is replaced by the clear one, and PC advances. -/
theorem clsClearsEveryPixel : Obligations.ClsClearsEveryPixel := by
  refine ⟨decodeWord_encode (i := .cls) rfl, fun s => ?_⟩
  have frame := onlyChanges_trans (setFb_onlyChanges s clearFb) (setPc_onlyChanges _ (s.pc + 2))
  exact ⟨_, rfl, rfl, fbGet_clearFb (advance s), frame⟩

end Sys2Proof
end

section
/-! The register writes of 41_register_alu.md: what one or two of them leave alone after the advance, and what each register
reads after a flag and then a destination are written (R132). -/

namespace Sys2Proof.Machine

/-- Only registers among `regs`, and PC, differ: the frame of every load and 8-bit operation. -/
def RegFrame (regs : List Reg) (s t : State) : Prop := OtherRegsKept regs s t ∧ OnlyChanges [.v, .pc] s t

theorem advance_regFrame (regs : List Reg) (s : State) : RegFrame regs s (advance s) := by
  refine ⟨fun _ _ => rfl, fun p hp => setPc_onlyChanges s (s.pc + 2) p fun isPc => hp ?_⟩
  exact List.mem_cons_of_mem _ isPc

theorem setV_onlyChanges (s : State) (x : Reg) (b : Byte) : OnlyChanges [.v] s (setV s x b) := by
  intro p hp
  have kept := keeps_refl p s
  cases p with
  | v => simp at hp
  | _ => exact kept

theorem RegFrame.setV {regs : List Reg} {s t : State} {x : Reg} (h : RegFrame regs s t) (hx : x ∈ regs) (b : Byte) :
    RegFrame regs s (setV t x b) := by
  obtain ⟨others, parts⟩ := h
  constructor
  · intro r hr
    have ne_x : r ≠ x := fun e => hr (e ▸ hx)
    exact (getV_setV_ne t b ne_x).trans (others r hr)
  · intro p hp
    have ne_v : p ∉ [Part.v] := fun isV => hp (List.mem_singleton.1 isV ▸ List.mem_cons_self)
    exact keeps_trans (parts p hp) (setV_onlyChanges t x b p ne_v)

theorem setV_advance_regFrame (s : State) (x : Reg) (b : Byte) : RegFrame [x] s (setV (advance s) x b) :=
  (advance_regFrame [x] s).setV List.mem_cons_self b

/-- The end of a Step that writes VF as a flag and then V[x] by `op` of what V[x] then holds: the subtracts and the shifts
(R132). -/
def flagThenDest (x : Reg) (flag : Byte) (op : Byte → Byte) (s : State) : State :=
  setV (setV (advance s) vf flag) x (op (getV (setV (advance s) vf flag) x))

theorem exec_sub (x y : Reg) (s : State) : exec (.sub x y) s =
    .next (flagThenDest x (greaterFlag (getV s x) (getV s y)) (fun _ => getV s x - getV s y) s) := rfl

theorem exec_subn (x y : Reg) (s : State) : exec (.subn x y) s =
    .next (flagThenDest x (greaterFlag (getV s y) (getV s x)) (fun _ => getV s y - getV s x) s) := rfl

theorem exec_shr (x y : Reg) (s : State) :
    exec (.shr x y) s = .next (flagThenDest x (lowBitFlag (getV s x)) (· >>> 1) s) := rfl

theorem exec_shl (x y : Reg) (s : State) :
    exec (.shl x y) s = .next (flagThenDest x (highBitFlag (getV s x)) (· <<< 1) s) := rfl

section
variable (x : Reg) (flag : Byte) (op : Byte → Byte) (s : State)

/-- The destination is written last, from the flag itself when it is VF. -/
theorem flagThenDest_dest :
    getV (flagThenDest x flag op s) x = op (if x = vf then flag else getV s x) := by
  rw [flagThenDest, getV_setV_same, getV_setV, getV_advance]

theorem flagThenDest_dest_of_ne {x : Reg} (hx : x ≠ vf) :
    getV (flagThenDest x flag op s) x = op (getV s x) := by
  rw [flagThenDest_dest, if_neg hx]

theorem flagThenDest_vf : getV (flagThenDest vf flag op s) vf = op flag := by
  rw [flagThenDest_dest, if_pos rfl]

theorem flagThenDest_flag {x : Reg} (hx : x ≠ vf) : getV (flagThenDest x flag op s) vf = flag := by
  rw [flagThenDest, getV_setV_ne _ _ hx.symm, getV_setV_same]

theorem flagThenDest_regFrame : RegFrame [x, vf] s (flagThenDest x flag op s) :=
  ((advance_regFrame [x, vf] s).setV (by simp) flag).setV (by simp) _

end

/-- The end of 8xy4: the sum, and then the carry (R123, R132). -/
def sumThenCarry (x y : Reg) (s : State) : State :=
  setV (setV (advance s) x (getV s x + getV s y)) vf (carryFlag (getV s x) (getV s y))

theorem exec_addReg (x y : Reg) (s : State) : exec (.addReg x y) s = .next (sumThenCarry x y s) := rfl

theorem sumThenCarry_dest {x : Reg} (y : Reg) (s : State) (hx : x ≠ vf) :
    getV (sumThenCarry x y s) x = getV s x + getV s y := by
  rw [sumThenCarry, getV_setV_ne _ _ hx, getV_setV_same]

theorem sumThenCarry_vf (x y : Reg) (s : State) :
    getV (sumThenCarry x y s) vf = carryFlag (getV s x) (getV s y) :=
  getV_setV_same _ _ _

theorem sumThenCarry_regFrame (x y : Reg) (s : State) : RegFrame [x, vf] s (sumThenCarry x y s) :=
  ((advance_regFrame [x, vf] s).setV (by simp) _).setV (by simp) _

end Sys2Proof.Machine
end

section
/-! The flags and the results as numbers (41_register_alu.md R123, R127 to R131). -/

namespace Sys2Proof.Machine

theorem flagByte_decide (p : Prop) [Decidable p] : flagByte (decide p) = if p then 1 else 0 := by
  simp [flagByte]

theorem carryFlag_eq (a b : Byte) : carryFlag a b = if a.toNat + b.toNat > 255 then 1 else 0 := flagByte_decide _

theorem greaterFlag_eq (m d : Byte) : greaterFlag m d = if m.toNat > d.toNat then 1 else 0 := flagByte_decide _

theorem flagByte_bit_toNat (b : Byte) (k : Nat) : (flagByte (b.getLsbD k)).toNat = b.toNat / 2 ^ k % 2 := by
  rw [BitVec.getLsbD, Nat.testBit_eq_decide_div_mod_eq, flagByte_decide]
  split
  · next h => exact h.symm
  · next h => exact (Nat.mod_two_ne_one.mp h).symm

theorem lowBitFlag_toNat (b : Byte) : (lowBitFlag b).toNat = b.toNat % 2 := by
  rw [lowBitFlag, flagByte_bit_toNat, pow_zero, Nat.div_one]

theorem highBitFlag_toNat (b : Byte) : (highBitFlag b).toNat = b.toNat / 128 := by
  have lt := b.isLt
  rw [highBitFlag, flagByte_bit_toNat]
  omega

theorem sub_toNat (m d : Byte) : (m - d).toNat = (m.toNat + 256 - d.toNat) % 256 := by
  have lt := d.isLt
  rw [BitVec.toNat_sub]
  omega

theorem shiftRight_one_toNat (b : Byte) : (b >>> 1).toNat = b.toNat / 2 := by
  rw [BitVec.toNat_ushiftRight, Nat.shiftRight_one]

theorem shiftLeft_one_toNat (b : Byte) : (b <<< 1).toNat = b.toNat * 2 % 256 := by
  rw [BitVec.toNat_shiftLeft, Nat.shiftLeft_eq]

/-- A flag has no bit but the lowest, so shifting it right loses it. -/
theorem lowBitFlag_shiftRight (b : Byte) : lowBitFlag b >>> 1 = 0 := by
  apply BitVec.eq_of_toNat_eq
  rw [shiftRight_one_toNat, lowBitFlag_toNat]
  exact Nat.div_eq_of_lt (Nat.mod_lt _ Nat.two_pos)

theorem highBitFlag_shiftLeft (b : Byte) : highBitFlag b <<< 1 = if b.getLsbD 7 then 2 else 0 := by
  unfold highBitFlag flagByte
  split <;> rfl

theorem highBitFlag_shiftLeft_toNat (b : Byte) : (highBitFlag b <<< 1).toNat = b.toNat / 128 * 2 := by
  have lt := b.isLt
  rw [shiftLeft_one_toNat, highBitFlag_toNat]
  omega

end Sys2Proof.Machine
end

section
/-! The statements about register loads and 8-bit arithmetic (41_register_alu.md), from the writes and the numbers above. -/

namespace Sys2Proof
open Machine

/-- Settles O35: each load is one register write after the advance. -/
theorem loadsWriteTheRegister : Obligations.LoadsWriteTheRegister := by
  refine fun x y nn => ⟨decodeWord_encode (i := .ldImm x nn) rfl, decodeWord_encode (i := .ldReg x y) rfl, fun s => ?_⟩
  have written := getV_setV_same (advance s) x
  have frame := setV_advance_regFrame s x
  exact ⟨⟨_, rfl, rfl, written nn, frame nn⟩, ⟨_, rfl, rfl, written (getV s y), frame (getV s y)⟩⟩

/-- Settles O36: the one register write is of the sum of two bytes. -/
theorem addImmediateWrapsWithoutFlag : Obligations.AddImmediateWrapsWithoutFlag := by
  refine fun x nn => ⟨decodeWord_encode (i := .addImm x nn) rfl, fun s => ?_⟩
  have written := getV_setV_same (advance s) x (getV s x + nn)
  refine ⟨_, rfl, rfl, ?_, setV_advance_regFrame s x _⟩
  rw [written, BitVec.toNat_add]

/-- Settles O37: the sum is written first, so the carry is what VF holds whatever x is. -/
theorem addRegisterSetsTheCarry : Obligations.AddRegisterSetsTheCarry := by
  refine fun x y => ⟨decodeWord_encode (i := .addReg x y) rfl, fun s => ?_⟩
  refine ⟨_, exec_addReg x y s, rfl, fun hx => ?_, ?_, sumThenCarry_regFrame x y s⟩
  · rw [sumThenCarry_dest y s hx, BitVec.toNat_add]
  · rw [sumThenCarry_vf, carryFlag_eq]

/-- Settles O38: each is one register write, of a bitwise operation of two bytes. -/
theorem bitwiseCombinesBitByBit : Obligations.BitwiseCombinesBitByBit := by
  refine fun x y => ⟨decodeWord_encode (i := .orReg x y) rfl, decodeWord_encode (i := .andReg x y) rfl,
    decodeWord_encode (i := .xorReg x y) rfl, fun s => ?_⟩
  have written := getV_setV_same (advance s) x
  have frame := setV_advance_regFrame s x
  refine ⟨⟨_, rfl, rfl, fun k => ?_, frame _⟩, ⟨_, rfl, rfl, fun k => ?_, frame _⟩, ⟨_, rfl, rfl, fun k => ?_, frame _⟩⟩
  · rw [written, BitVec.getLsbD_or]
  · rw [written, BitVec.getLsbD_and]
  · rw [written, BitVec.getLsbD_xor]

/-- The clauses of O39 that SUB and SUBN share, for any minuend and subtrahend. -/
theorem subtract_effect (x : Reg) (m d : Byte) (s : State) :
    (getV (flagThenDest x (greaterFlag m d) (fun _ => m - d) s) x).toNat = (m.toNat + 256 - d.toNat) % 256 ∧
    (x ≠ vf → getV (flagThenDest x (greaterFlag m d) (fun _ => m - d) s) vf = if m.toNat > d.toNat then 1 else 0) ∧
    RegFrame [x, vf] s (flagThenDest x (greaterFlag m d) (fun _ => m - d) s) := by
  refine ⟨?_, fun hx => ?_, flagThenDest_regFrame _ _ _ _⟩
  · rw [flagThenDest_dest, sub_toNat]
  · rw [flagThenDest_flag _ _ _ hx, greaterFlag_eq]

/-- Settles O39: the difference is taken of the operands as they were, and written after the flag. -/
theorem subtractsSetTheGreaterFlag : Obligations.SubtractsSetTheGreaterFlag := fun x y =>
  ⟨decodeWord_encode (i := .sub x y) rfl, decodeWord_encode (i := .subn x y) rfl, fun s =>
    ⟨⟨_, exec_sub x y s, rfl, subtract_effect x (getV s x) (getV s y) s⟩,
      ⟨_, exec_subn x y s, rfl, subtract_effect x (getV s y) (getV s x) s⟩⟩⟩

/-- Settles O40: the shift is of V[x] as it stands after the flag write, so of the flag when x is F. -/
theorem shiftsPutTheLostBitInVf : Obligations.ShiftsPutTheLostBitInVf := by
  refine fun x y => ⟨decodeWord_encode (i := .shr x y) rfl, decodeWord_encode (i := .shl x y) rfl, fun s => ?_⟩
  have frame := fun flag op => flagThenDest_regFrame x flag op s
  constructor
  · refine ⟨_, exec_shr x y s, rfl, fun hx => ⟨?_, ?_⟩, fun hx => ?_, frame _ _⟩
    · rw [flagThenDest_dest_of_ne _ _ _ hx, shiftRight_one_toNat]
    · rw [flagThenDest_flag _ _ _ hx, lowBitFlag_toNat]
    · rw [hx, flagThenDest_vf, lowBitFlag_shiftRight]
  · refine ⟨_, exec_shl x y s, rfl, fun hx => ⟨?_, ?_⟩, fun hx => ?_, frame _ _⟩
    · rw [flagThenDest_dest_of_ne _ _ _ hx, shiftLeft_one_toNat]
    · rw [flagThenDest_flag _ _ _ hx, highBitFlag_toNat]
    · rw [hx, flagThenDest_vf, highBitFlag_shiftLeft_toNat]

/-- Settles O41: the add writes its flag last; the others write the destination last, the shifts from the flag. -/
theorem writeOrderWhenVfIsTheDestination : Obligations.WriteOrderWhenVfIsTheDestination := by
  intro y s
  refine ⟨⟨_, exec_addReg vf y s, ?_⟩, ⟨_, exec_sub vf y s, ?_⟩, ⟨_, exec_subn vf y s, ?_⟩,
    ⟨_, exec_shr vf y s, ?_⟩, ⟨_, exec_shl vf y s, ?_⟩⟩
  · rw [sumThenCarry_vf, carryFlag_eq]
  · exact flagThenDest_vf _ _ s
  · exact flagThenDest_vf _ _ s
  · rw [flagThenDest_vf, lowBitFlag_shiftRight]
  · rw [flagThenDest_vf, highBitFlag_shiftLeft]

end Sys2Proof
end

section
/-! Writing the index register and drawing a byte: what each leaves alone, the flag of I, and the byte a draw reads
(42_index_and_random.md). -/

namespace Sys2Proof.Machine

theorem setIndex_onlyChanges (s : State) (a : Word) : OnlyChanges [.index] s (setIndex s a) := by
  intro p hp
  have kept := keeps_refl p s
  cases p with
  | index => simp at hp
  | _ => exact kept

/-- The port and the draw count are one part. -/
theorem afterDraw_onlyChanges (s : State) : OnlyChanges [.rand] s (afterDraw s) := by
  intro p hp
  have kept := keeps_refl p s
  cases p with
  | rand => simp at hp
  | _ => exact kept

theorem setV_otherRegsKept (s : State) (x : Reg) (b : Byte) : OtherRegsKept [x] s (setV s x b) :=
  fun _ hr => getV_setV_ne s b (mt List.mem_singleton.2 hr)

theorem indexFlag_eq (a : Word) : indexFlag a = if a.toNat > 0x0FFF then 1 else 0 := flagByte_decide _

theorem index_add_wideOperand_toNat (a : Word) (b : Byte) : (a + wideOperand b).toNat = (a.toNat + b.toNat) % 65536 := by
  rw [BitVec.toNat_add, wideOperand_toNat]

theorem randValue_of_some {s : State} {r : Byte} (h : s.rand = some r) : randValue s = r := by
  rw [randValue, h, Option.getD_some]

theorem randValue_of_none {s : State} (h : s.rand = none) : randValue s = Config.randByte s.draws := by
  rw [randValue, h, Option.getD_none]

theorem exec_ldI (nnn : Addr) (s : State) : exec (.ldI nnn) s = .next (setIndex (advance s) (addrOperand nnn)) := rfl

theorem exec_addI (x : Reg) (s : State) : exec (.addI x) s =
    .next (setV (setIndex (advance s) (s.index + wideOperand (getV s x))) vf
      (indexFlag (s.index + wideOperand (getV s x)))) := rfl

theorem exec_rnd (x : Reg) (nn : Byte) (s : State) :
    exec (.rnd x nn) s = .next (setV (afterDraw (advance s)) x (randValue s &&& nn)) := rfl

/-! Updates of different parts commute, so each frame is put together in the order its list of parts has. -/

theorem ldI_onlyChanges (s : State) (a : Word) : OnlyChanges [.index, .pc] s (setIndex (advance s) a) :=
  onlyChanges_trans (setIndex_onlyChanges s a) (setPc_onlyChanges _ (s.pc + 2))

theorem addI_onlyChanges (s : State) (a : Word) (b : Byte) :
    OnlyChanges [.v, .index, .pc] s (setV (setIndex (advance s) a) vf b) :=
  onlyChanges_trans (setV_onlyChanges s vf b) (ldI_onlyChanges _ a)

theorem rnd_onlyChanges (s : State) (x : Reg) (b : Byte) :
    OnlyChanges [.v, .pc, .rand] s (setV (afterDraw (advance s)) x b) :=
  have advanced := onlyChanges_trans (setV_onlyChanges s x b) (setPc_onlyChanges _ (s.pc + 2))
  onlyChanges_trans advanced (afterDraw_onlyChanges _)

end Sys2Proof.Machine

namespace Sys2Proof
open Machine

/-- Settles O42: VF is written last, with the flag of the sum I then holds, so x = F is no case of its own. -/
theorem indexLoadsAndAdds : Obligations.IndexLoadsAndAdds := by
  refine ⟨fun nnn => ⟨decodeWord_encode (i := .ldI nnn) rfl, fun s => ?_⟩,
    fun x => ⟨decodeWord_encode (i := .addI x) rfl, fun s => ?_⟩⟩
  · exact ⟨_, exec_ldI nnn s, rfl, addrOperand_toNat nnn, ldI_onlyChanges s _⟩
  · have sum := index_add_wideOperand_toNat s.index (getV s x)
    refine ⟨_, exec_addI x s, rfl, sum, ?_, setV_otherRegsKept _ vf _, addI_onlyChanges s _ _⟩
    exact (getV_setV_same _ vf _).trans (indexFlag_eq _)

/-- Settles O43: the one register write is of the drawn byte, which is the port's or, with none there, the free value. -/
theorem randomMasksTheDrawnByte : Obligations.RandomMasksTheDrawnByte := by
  intro x nn s
  have written := getV_setV_same (afterDraw (advance s)) x (randValue s &&& nn)
  refine ⟨_, exec_rnd x nn s, rfl, fun r onPort => ?_, fun empty => ?_, rfl, rfl, setV_otherRegsKept _ x _,
    rnd_onlyChanges s x _⟩
  · rw [written, randValue_of_some onPort]
  · rw [written, randValue_of_none empty]

end Sys2Proof
end

section
/-! The sprite rows of a draw that reads them all, one after another: what they do to a pixel and when they collide, by
the sprite bit that falls on it (43_draw.md R150, R153, R154). -/

namespace Sys2Proof.Machine

theorem plotRows_append (s : State) (x0 y0 : Nat) (rs rest : List Nat) (p : Framebuffer × Bool) :
    plotRows s x0 y0 (rs ++ rest) p = (plotRows s x0 y0 rs p).bind (plotRows s x0 y0 rest) := by
  induction rs generalizing p with
  | nil => rfl
  | cons r rs ih =>
    rw [List.cons_append, plotRows_step, plotRows_step]
    split
    · exact ih _
    · rfl

/-- The first n sprite rows plotted into the framebuffer, and whether one of them collided. -/
def drawRows (s : State) (x0 y0 n : Nat) : Framebuffer × Bool :=
  match n with
  | 0 => (s.fb, false)
  | n + 1 => plotRow (y0 + n) x0 (memGet s.mem (s.index.toNat + n)) (drawRows s x0 y0 n)

theorem plotRows_range {s : State} {n : Nat} (x0 y0 : Nat) (h : n = 0 ∨ s.index.toNat + n ≤ 0x0FFF) :
    plotRows s x0 y0 (List.range n) (s.fb, false) = .ok (drawRows s x0 y0 n) := by
  induction n with
  | zero => rfl
  | succ n ih =>
    have readable : s.index.toNat + n + 1 ≤ 0x0FFF := by omega
    rw [List.range_succ, plotRows_append, ih (by omega)]
    exact (plotRows_step s x0 y0 n [] _).trans (if_pos readable)

/-! The sprite with one row more: that row is the lowest. -/

theorem spriteBit_zero (s : State) (x0 y0 row col : Nat) : spriteBit s x0 y0 0 row col = false := by
  simp [spriteBit]

theorem spriteBit_past_last (s : State) (x0 y0 n col : Nat) : spriteBit s x0 y0 n (y0 + n) col = false := by
  simp [spriteBit]

theorem spriteBit_succ_last (s : State) (x0 y0 n col : Nat) : spriteBit s x0 y0 (n + 1) (y0 + n) col =
    (decide (x0 ≤ col ∧ col - x0 < 8) && (memGet s.mem (s.index.toNat + n)).getLsbD (7 - (col - x0))) := by
  simp [spriteBit]

theorem spriteBit_succ_of_ne (s : State) (x0 : Nat) {y0 n row : Nat} (col : Nat) (h : row ≠ y0 + n) :
    spriteBit s x0 y0 (n + 1) row col = spriteBit s x0 y0 n row col := by
  have same : y0 ≤ row ∧ row - y0 < n + 1 ∧ x0 ≤ col ∧ col - x0 < 8 ↔
      y0 ≤ row ∧ row - y0 < n ∧ x0 ≤ col ∧ col - x0 < 8 := by omega
  rw [spriteBit, spriteBit, decide_eq_decide.2 same]

theorem drawRows_pixel (s : State) (x0 y0 n : Nat) (row : Fin 32) (col : Fin 64) :
    (drawRows s x0 y0 n).1[row.val][col.val] = (fbGet s row col ^^ spriteBit s x0 y0 n row.val col.val) := by
  induction n with
  | zero => rw [spriteBit_zero, Bool.xor_false]; rfl
  | succ n ih =>
    rw [drawRows, plotRow_pixel, ih]
    by_cases last : row.val = y0 + n
    · rw [last, spriteBit_past_last, spriteBit_succ_last]
      simp
    · rw [spriteBit_succ_of_ne s x0 _ last]
      simp [last]

/-- No earlier row has touched the pixels the last row falls on, so it collides with those of the framebuffer. -/
theorem drawRows_hit (s : State) (x0 y0 n : Nat) :
    (drawRows s x0 y0 n).2 = true ↔
      ∃ row col, fbGet s row col = true ∧ spriteBit s x0 y0 n row.val col.val = true := by
  induction n with
  | zero => simp [drawRows, spriteBit_zero]
  | succ n ih =>
    rw [drawRows, plotRow_hit, ih]
    simp only [drawRows_pixel]
    constructor
    · rintro (⟨row, col, set, bit⟩ | ⟨row, col, ⟨last, columns⟩, bit, set⟩)
      · have earlier : row.val ≠ y0 + n := fun e => by simp [e, spriteBit_past_last] at bit
        exact ⟨row, col, set, (spriteBit_succ_of_ne s x0 _ earlier).trans bit⟩
      · rw [last, spriteBit_past_last, Bool.xor_false] at set
        refine ⟨row, col, set, ?_⟩
        rw [last, spriteBit_succ_last, bit, decide_eq_true columns, Bool.and_self]
    · rintro ⟨row, col, set, bit⟩
      by_cases last : row.val = y0 + n
      · rw [last, spriteBit_succ_last, Bool.and_eq_true, decide_eq_true_iff] at bit
        refine .inr ⟨row, col, ⟨last, bit.1⟩, bit.2, ?_⟩
        rw [last, spriteBit_past_last, Bool.xor_false, set]
      · exact .inl ⟨row, col, set, (spriteBit_succ_of_ne s x0 _ last).symm.trans bit⟩

end Sys2Proof.Machine
end

section
/-! DRW: the start as a number, the flag, and the two ends of its Step (43_draw.md R151, R154, R155). -/

namespace Sys2Proof.Machine

theorem startColumn_eq (b : Byte) : startColumn b = b.toNat % 64 := by
  rw [startColumn, BitVec.toNat_and]
  exact Nat.and_two_pow_sub_one_eq_mod b.toNat 6

theorem startRow_eq (b : Byte) : startRow b = b.toNat % 32 := by
  rw [startRow, BitVec.toNat_and]
  exact Nat.and_two_pow_sub_one_eq_mod b.toNat 5

theorem collisionFlag_zero_or_one (hit : Bool) : collisionFlag hit = 0 ∨ collisionFlag hit = 1 := by
  cases hit with
  | false => exact .inl rfl
  | true => exact .inr rfl

theorem collisionFlag_eq_one (hit : Bool) : collisionFlag hit = 1 ↔ hit = true := by
  cases hit <;> decide

theorem exec_drw (x y : Reg) (n : Nibble) (s : State) :
    exec (.drw x y n) s = endStep (.drw x y n) s
      ((plotRows (advance s) ((getV s x).toNat % 64) ((getV s y).toNat % 32) (List.range n.toNat) (s.fb, false)).map
        fun p => setV (setFb (advance s) p.1) vf (collisionFlag p.2)) := by
  rw [← startColumn_eq, ← startRow_eq]
  rfl

/-- The end of a draw whose rows can all be read. -/
def drawn (x y : Reg) (n : Nibble) (s : State) : State :=
  let p := drawRows (advance s) ((getV s x).toNat % 64) ((getV s y).toNat % 32) n.toNat
  setV (setFb (advance s) p.1) vf (collisionFlag p.2)

theorem exec_drw_of_readable (x y : Reg) {n : Nibble} {s : State} (h : n = 0 ∨ s.index.toNat + n.toNat ≤ 0x0FFF) :
    exec (.drw x y n) s = .next (drawn x y n s) := by
  have zero_or_fits : n.toNat = 0 ∨ (advance s).index.toNat + n.toNat ≤ 0x0FFF := h.imp_left (congrArg BitVec.toNat)
  have rows := plotRows_range ((getV s x).toNat % 64) ((getV s y).toNat % 32) zero_or_fits
  rw [advance_fb] at rows
  rw [exec_drw, rows]
  rfl

/-- The rows before r can be read, so the draw faults at row r (R155). -/
theorem exec_drw_of_unreadable (x y : Reg) {n : Nibble} {s : State} {r : Nat} (hr : r < n.toNat)
    (before : ∀ r' < r, s.index.toNat + r' + 1 ≤ 0x0FFF) (past : 0x0FFF < s.index.toNat + r + 1) :
    exec (.drw x y n) s = .next (faulted s (.drw x y n) (.memoryOutOfRange (s.index.toNat + r))) := by
  obtain ⟨k, rows⟩ := Nat.exists_eq_add_of_le (Nat.succ_le_of_lt hr)
  have split_at_r : List.range n.toNat = List.range r ++ r :: (List.range k).map (r + 1 + ·) := by
    rw [rows, List.range_add, List.range_succ, List.append_assoc, List.singleton_append]
  have readable : ∀ r' ∈ List.range r, (advance s).index.toNat + r' + 1 ≤ 0x0FFF :=
    fun r' hr' => before r' (List.mem_range.1 hr')
  rw [exec_drw, split_at_r, plotRows_error (advance s) _ _ _ _ r _ readable past]
  rfl

theorem exec_drw_zero (x y : Reg) (s : State) : exec (.drw x y 0) s = .next (setV (advance s) vf 0) := rfl

theorem drw_onlyChanges (s : State) (f : Framebuffer) (b : Byte) :
    OnlyChanges [.v, .fb, .pc] s (setV (setFb (advance s) f) vf b) :=
  have advanced := onlyChanges_trans (setFb_onlyChanges (setV s vf b) f) (setPc_onlyChanges _ (s.pc + 2))
  onlyChanges_trans (setV_onlyChanges s vf b) advanced

end Sys2Proof.Machine

namespace Sys2Proof
open Machine

/-- Settles O44: the rows are plotted one after another, none on a pixel of another, and VF is written last. -/
theorem drawXorsTheSpriteAndReportsCollision : Obligations.DrawXorsTheSpriteAndReportsCollision := by
  intro x y n s readable
  have flag : getV (drawn x y n s) vf = collisionFlag _ := getV_setV_same _ vf _
  refine ⟨_, exec_drw_of_readable x y readable, rfl, drawRows_pixel (advance s) _ _ _, ?_, ?_,
    setV_otherRegsKept _ vf _, drw_onlyChanges s _ _⟩
  · rw [flag]
    exact collisionFlag_zero_or_one _
  · rw [flag, collisionFlag_eq_one]
    exact drawRows_hit (advance s) _ _ _

/-- Settles O45: the first row that cannot be read is 0x0FFF - I, and row 0 when I is already past 0x0FFF. -/
theorem drawFaultsAtTheTopOfMemory : Obligations.DrawFaultsAtTheTopOfMemory := by
  intro x y n s nonempty
  refine ⟨fun high => ?_, fun fits => ⟨_, exec_drw_of_readable x y (.inr fits), rfl⟩⟩
  have inside : 0x0FFF - s.index.toNat < n.toNat := by omega
  have past : 0x0FFF < s.index.toNat + (0x0FFF - s.index.toNat) + 1 := by omega
  have before : ∀ r' < 0x0FFF - s.index.toNat, s.index.toNat + r' + 1 ≤ 0x0FFF := by omega
  exact ⟨_, inside, past, before, exec_drw_of_unreadable x y inside before past⟩

/-- Settles O46: with no row to read, VF is the one thing written after the advance. -/
theorem drawOfHeightZeroOnlyClearsVf : Obligations.DrawOfHeightZeroOnlyClearsVf := fun x y s =>
  ⟨_, exec_drw_zero x y s, rfl, getV_setV_same _ vf 0, setV_advance_regFrame s vf 0⟩

end Sys2Proof
end

section
/-! The timer writes, wait-for-key and store-BCD: what each changes, which key is taken, and the bytes a BCD store leaves
(44_timers_keys_bcd.md). -/

namespace Sys2Proof.Machine

theorem setDt_onlyChanges (s : State) (b : Byte) : OnlyChanges [.dt] s (setDt s b) := by
  intro p hp
  have kept := keeps_refl p s
  cases p with
  | dt => simp at hp
  | _ => exact kept

theorem setSt_onlyChanges (s : State) (b : Byte) : OnlyChanges [.st] s (setSt s b) := by
  intro p hp
  have kept := keeps_refl p s
  cases p with
  | st => simp at hp
  | _ => exact kept

theorem exec_ldDt (x : Reg) (s : State) : exec (.ldDt x) s = .next (setDt (advance s) (getV s x)) := rfl

theorem exec_ldSt (x : Reg) (s : State) : exec (.ldSt x) s = .next (setSt (advance s) (getV s x)) := rfl

theorem soundActive_iff (s : State) : soundActive s = true ↔ s.st ≠ 0 := bne_iff_ne

theorem byteOfNat_toNat {n : Nat} (h : n < 256) : (BitVec.ofNat 8 n).toNat = n := Nat.mod_eq_of_lt h

/-! Wait-for-key: the two ends of its Step, by what KEY_SELECT answers (R162). -/

theorem exec_ldKey_of_some {x : Reg} {s : State} {k : Key} (h : selectKey s = some k) :
    exec (.ldKey x) s = .next (setV (advance s) x (BitVec.ofNat 8 k.val)) := by
  simp only [exec, execLdKey, h]

/-- With no key to take, the advance is undone and the Step ends in the state it began in. -/
theorem exec_ldKey_of_none {x : Reg} {s : State} (h : selectKey s = none) : exec (.ldKey x) s = .next s := by
  have rewound : (advance s).pc - 2 = s.pc := BitVec.add_sub_cancel s.pc 2
  simp only [exec, execLdKey, h, rewound]
  rfl

theorem selectKey_of_pressed {s : State} (h : ∃ k, getKey s k = true) : ∃ k, selectKey s = some k := by
  obtain ⟨k, pressed⟩ := h
  refine Option.ne_none_iff_exists'.1 fun none_selected => ?_
  exact Bool.false_ne_true (((selectKey_none s).1 none_selected k).symm.trans pressed)

/-- KEY_SELECT is a function of the pressed set (00_scope.md R11). -/
theorem selectKey_congr {s t : State} (h : ∀ k, getKey s k = getKey t k) : selectKey s = selectKey t := by
  have keys : s.keys = t.keys := Vector.ext fun i hi => h ⟨i, hi⟩
  have pressed : pressedKeys s = pressedKeys t := congrArg allRegs.filter (funext h)
  rw [selectKey, selectKey, pressed, keys]

/-! Store-BCD: the digits as memory reads them, and the two ends of its Step (R163). -/

theorem memGet_bcdStore (m : List Host.Cell) (a : Nat) (b : Byte) :
    (memGet (memSetAll m a (bcdDigits b)) a).toNat = b.toNat / 100 ∧
    (memGet (memSetAll m a (bcdDigits b)) (a + 1)).toNat = b.toNat / 10 % 10 ∧
    (memGet (memSetAll m a (bcdDigits b)) (a + 2)).toNat = b.toNat % 10 := by
  have stored := fun j hj => congrArg BitVec.toNat (memGet_memSetAll_inside (bcdDigits b) m a j hj)
  have := b.isLt
  exact ⟨(stored 0 (show 0 < 3 by decide)).trans (byteOfNat_toNat (by omega)),
    (stored 1 (show 1 < 3 by decide)).trans (byteOfNat_toNat (by omega)),
    (stored 2 (show 2 < 3 by decide)).trans (byteOfNat_toNat (by omega))⟩

theorem exec_ldBcd (x : Reg) (s : State) : exec (.ldBcd x) s =
    endStep (.ldBcd x) s (writeBytes (advance s) s.index.toNat (bcdDigits (getV s x))) := rfl

theorem exec_ldBcd_of_fits (x : Reg) {s : State} (h : s.index.toNat + 2 ≤ 0x0FFF) : exec (.ldBcd x) s =
    .next (setMem (advance s) (memSetAll s.mem s.index.toNat (bcdDigits (getV s x)))) := by
  have fits : s.index.toNat + (bcdDigits (getV s x)).length ≤ 0x1000 := Nat.succ_le_succ h
  rw [exec_ldBcd, writeBytes_ok _ _ _ (.inr fits), endStep_ok, advance_mem]

theorem exec_ldBcd_past_end (x : Reg) {s : State} (h : 0x0FFF < s.index.toNat + 2) :
    exec (.ldBcd x) s = .next (faulted s (.ldBcd x) (.memoryOutOfRange (max s.index.toNat 0x1000))) := by
  have nonempty : bcdDigits (getV s x) ≠ [] := List.cons_ne_nil _ _
  have past : 0x1000 < s.index.toNat + (bcdDigits (getV s x)).length := Nat.succ_lt_succ h
  rw [exec_ldBcd, writeBytes_error _ (advance s) _ nonempty past]
  rfl

end Sys2Proof.Machine

namespace Sys2Proof
open Machine

/-- Settles O48: KEY_SELECT answers a pressed key exactly when there is one, and depends on the pressed set alone. -/
theorem waitForKeyTakesAPressedKeyOrRewinds : Obligations.WaitForKeyTakesAPressedKeyOrRewinds := by
  refine ⟨fun x s pressed => ?_, fun x s none_pressed => ?_, fun x s s' t t' pressed same ht ht' => ?_⟩
  · obtain ⟨k, selected⟩ := selectKey_of_pressed pressed
    obtain ⟨others, frame⟩ := setV_advance_regFrame s x (BitVec.ofNat 8 k.val)
    refine ⟨_, k, exec_ldKey_of_some selected, rfl, selectKey_pressed selected, ?_, others, frame⟩
    rw [getV_setV_same, byteOfNat_toNat (by omega)]
  · exact ⟨s, exec_ldKey_of_none ((selectKey_none s).2 none_pressed), rfl, fun p _ => keeps_refl p s⟩
  · obtain ⟨k, selected⟩ := selectKey_of_pressed pressed
    have selected' : selectKey s' = some k := (selectKey_congr same).symm.trans selected
    cases (exec_ldKey_of_some selected).symm.trans ht
    cases (exec_ldKey_of_some selected').symm.trans ht'
    rw [getV_setV_same, getV_setV_same]

/-- Settles O49: the store is of the three digits in a row from I, and it fits or faults as a whole. -/
theorem bcdStoresThreeDigitsOrFaults : Obligations.BcdStoresThreeDigitsOrFaults := by
  refine fun x => ⟨decodeWord_encode (i := .ldBcd x) rfl, fun s => ⟨fun fits => ?_, exec_ldBcd_past_end x⟩⟩
  obtain ⟨hundreds, tens, units⟩ := memGet_bcdStore s.mem s.index.toNat (getV s x)
  have frame := onlyChanges_trans (setMem_onlyChanges s (memSetAll s.mem s.index.toNat (bcdDigits (getV s x))))
    (setPc_onlyChanges _ (s.pc + 2))
  exact ⟨_, exec_ldBcd_of_fits x fits, rfl, hundreds, tens, units,
    fun a outside => memGet_memSetAll_outside (bcdDigits (getV s x)) s.mem s.index.toNat a outside, frame⟩

/-- Settles O47: each is one timer write after the advance. -/
theorem timerWritesCopyTheRegister : Obligations.TimerWritesCopyTheRegister := by
  refine fun x => ⟨decodeWord_encode (i := .ldDt x) rfl, decodeWord_encode (i := .ldSt x) rfl, fun s => ?_⟩
  have delay := onlyChanges_trans (setDt_onlyChanges s (getV s x)) (setPc_onlyChanges _ (s.pc + 2))
  have sound := onlyChanges_trans (setSt_onlyChanges s (getV s x)) (setPc_onlyChanges _ (s.pc + 2))
  exact ⟨⟨_, exec_ldDt x s, rfl, rfl, delay⟩, ⟨_, exec_ldSt x s, rfl, rfl, soundActive_iff _, sound⟩⟩

end Sys2Proof
end

section
/-! The three modes of UNDESCRIBED_OPS, and unmapped words: what each class of instruction does, said once for all its rows
(45_undescribed_and_unmapped.md R171, R172, R180, R181, R185). -/

namespace Sys2Proof.Machine

theorem undescribedStep_of_refuse {s : State} (i : Instr) (r : Except Fault State) (h : s.undescribedOps = .refuse) :
    undescribedStep i s r = .next (refusedAt s i) := by
  simp only [undescribedStep, h]
  rfl

theorem undescribedStep_of_noop {s : State} (i : Instr) (r : Except Fault State) (h : s.undescribedOps = .noop) :
    undescribedStep i s r = .next (advance s) := by
  simp only [undescribedStep, h]

theorem undescribedStep_of_standard {s : State} (i : Instr) (r : Except Fault State) (h : s.undescribedOps = .standard) :
    undescribedStep i s r = endStep i s r := by
  simp only [undescribedStep, h]

theorem schipStep_of_noop {s : State} (i : Instr) (h : s.undescribedOps = .noop) : schipStep i s = .next (advance s) := by
  simp only [schipStep, h]

theorem schipStep_of_ne_noop {s : State} (i : Instr) (h : s.undescribedOps ≠ .noop) :
    schipStep i s = .next (refusedAt s i) := by
  obtain ⟨-, e⟩ | ⟨noop, -⟩ := schipStep_cases i s
  · exact e
  · exact absurd noop h

/-- An undescribed form leaves the choice of its effect to UNDESCRIBED_OPS; `r` is its conventional meaning. -/
theorem exec_of_undescribed {i : Instr} (h : i.kind = .undescribed) (s : State) :
    ∃ r, exec i s = undescribedStep i s r := by
  cases i with
  | skp | sknp | ldFromDt | ldFont | ldHiFont | storeRegs | loadRegs => exact ⟨_, rfl⟩
  | _ => cases h

theorem exec_of_schip {i : Instr} (h : i.kind = .schip) (s : State) : exec i s = schipStep i s := by
  cases i with
  | scd | scr | scl | exit | low | high | saveFlags | restoreFlags => rfl
  | _ => cases h

theorem exec_of_unmapped {i : Instr} (h : i.kind = .unmapped) (s : State) : exec i s = .next (advance s) := by
  cases i with
  | unmapped8xy8 | unmapped8xy9 | unmapped8xyA | unmapped8xyB | unmapped8xyC | unmapped8xyD | unmapped8xyF
  | unmapped0nnn | unmappedExnn | unmappedFxnn => rfl
  | _ => cases h

theorem exec_of_refuse {i : Instr} {s : State} (mode : s.undescribedOps = .refuse)
    (h : i.kind = .undescribed ∨ i.kind = .schip) : exec i s = .next (refusedAt s i) := by
  rcases h with undescribed | schip
  · obtain ⟨r, e⟩ := exec_of_undescribed undescribed s
    rw [e, undescribedStep_of_refuse i r mode]
  · rw [exec_of_schip schip, schipStep_of_ne_noop i (by simp [mode])]

theorem exec_of_noop {i : Instr} {s : State} (mode : s.undescribedOps = .noop)
    (h : i.kind = .undescribed ∨ i.kind = .schip) : exec i s = .next (advance s) := by
  rcases h with undescribed | schip
  · obtain ⟨r, e⟩ := exec_of_undescribed undescribed s
    rw [e, undescribedStep_of_noop i r mode]
  · rw [exec_of_schip schip, schipStep_of_noop i mode]

theorem advance_onlyChanges (s : State) : OnlyChanges [.pc] s (advance s) := setPc_onlyChanges s (s.pc + 2)

theorem unmappedPulse_of_unmapped {s : State} {w : Word} (good : Good s) (fetched : fetch s = .ok w)
    (unmapped : (decodeWord w).kind = .unmapped) : unmappedPulse s = some (s.pc, w) := by
  simp only [unmappedPulse, (running_iff s).2 good, fetched, unmapped, if_true]

/-- A pulse says that nothing is latched and what the fetch reads (R187). -/
theorem of_unmappedPulse {s : State} {p w : Word} (pulse : unmappedPulse s = some (p, w)) :
    Good s ∧ p = s.pc ∧ fetch s = .ok w ∧ (decodeWord w).kind = .unmapped := by
  unfold unmappedPulse at pulse
  split at pulse
  case isTrue idle =>
    split at pulse
    case h_1 word fetched =>
      split at pulse
      case isTrue unmapped =>
        cases pulse
        exact ⟨(running_iff s).1 idle, rfl, fetched, unmapped⟩
      case isFalse => cases pulse
    case h_2 => cases pulse
  case isFalse => cases pulse

/-- Word 0x0000 stands at the entry point after reset, where no font reaches (R185). -/
theorem decode_at_reset :
    decode [memGet State.reset.mem 0x200, memGet State.reset.mem 0x201] = .ok (.unmapped0nnn 0, []) := by
  rw [memGet_reset, memGet_reset, unlistedByte_outside (by decide), unlistedByte_outside (by decide)]
  rfl

end Sys2Proof.Machine

namespace Sys2Proof
open Machine

/-- Settles O55: a refused form of either class commits nothing, and a SCHIP-only form is refused under standard too. -/
theorem refusedFormsCommitNothing : Obligations.RefusedFormsCommitNothing := by
  refine fun i s => ⟨exec_of_refuse, fun mode schip => ?_⟩
  rw [exec_of_schip schip, schipStep_of_ne_noop i (by simp [mode])]

/-- Settles O56: under noop both classes end in the advance. -/
theorem noopModeAdvancesOnly : Obligations.NoopModeAdvancesOnly := fun _ s mode h =>
  ⟨_, exec_of_noop mode h, rfl, advance_onlyChanges s⟩

/-- Settles O58: every row of the class is the advance, and word 0x0000 at 0x200 is of it. -/
theorem unmappedWordsAreNoOps : Obligations.UnmappedWordsAreNoOps := by
  refine ⟨fun i s h => ⟨_, exec_of_unmapped h s, rfl, advance_onlyChanges s⟩, ?_⟩
  rw [step_idle rfl, cycle_eq_exec ⟨rfl, rfl⟩ (by decide) decode_at_reset]
  rfl

/-- Settles O59: the pulse is of the unmapped class's branch of the fetch, and every other branch gives none. -/
theorem unmappedPulseNamesTheWord : Obligations.UnmappedPulseNamesTheWord := by
  refine fun s p w => ⟨of_unmappedPulse, ?_⟩
  rintro ⟨good, rfl, fetched, unmapped⟩
  exact unmappedPulse_of_unmapped good fetched unmapped

end Sys2Proof
end

section
/-! The key skips, the timer read and the glyph pointers under standard (45_undescribed_and_unmapped.md R173 to R177). -/

namespace Sys2Proof.Machine

theorem keyOperand_of_key {b : Byte} {k : Key} (h : b.toNat = k.val) : keyOperand b = .ok k := by
  have names : b.toNat < 16 := h ▸ k.isLt
  rw [keyOperand, dif_pos names]
  exact congrArg Except.ok (Fin.ext h)

theorem keyOperand_above_fifteen {b : Byte} (h : 15 < b.toNat) : keyOperand b = .error (.keyIndexOutOfRange b.toNat) :=
  dif_neg (Nat.not_lt.2 h)

/-- The Step of Ex9E and of ExA1: a skip on what `cond` says of the key V[x] names. -/
def keySkip (i : Instr) (x : Reg) (cond : Key → Bool) (s : State) : Result :=
  undescribedStep i s ((keyOperand (getV s x)).map fun k => skipIf (advance s) (cond k))

theorem exec_skp (x : Reg) (s : State) : exec (.skp x) s = keySkip (.skp x) x (getKey s) s := rfl

theorem exec_sknp (x : Reg) (s : State) : exec (.sknp x) s = keySkip (.sknp x) x (fun k => !getKey s k) s := rfl

section
variable {s : State} (mode : s.undescribedOps = .standard)
include mode

theorem keySkip_of_key (i : Instr) {x : Reg} {k : Key} (cond : Key → Bool) (named : (getV s x).toNat = k.val) :
    keySkip i x cond s = .next (skipIf (advance s) (cond k)) := by
  rw [keySkip, undescribedStep_of_standard i _ mode, keyOperand_of_key named]
  rfl

theorem keySkip_above_fifteen (i : Instr) {x : Reg} (cond : Key → Bool) (above : 15 < (getV s x).toNat) :
    keySkip i x cond s = .next (faulted s i (.keyIndexOutOfRange (getV s x).toNat)) := by
  rw [keySkip, undescribedStep_of_standard i _ mode, keyOperand_above_fifteen above]
  rfl

variable (x : Reg)

theorem exec_ldFromDt_of_standard : exec (.ldFromDt x) s = .next (setV (advance s) x s.dt) :=
  undescribedStep_of_standard (.ldFromDt x) _ mode

theorem exec_ldFont_of_standard : exec (.ldFont x) s = .next (setIndex (advance s) (stdGlyphAddr (getV s x))) :=
  undescribedStep_of_standard (.ldFont x) _ mode

theorem exec_ldHiFont_of_standard : exec (.ldHiFont x) s = .next (setIndex (advance s) (extGlyphAddr (getV s x))) :=
  undescribedStep_of_standard (.ldHiFont x) _ mode

end

theorem skipIf_advance_pc (s : State) (c : Bool) :
    (skipIf (advance s) c).pc = if c = true then s.pc + 4 else s.pc + 2 := by
  rw [skipIf_advance, setPc_pc]

theorem skipIf_not_advance_pc (s : State) (c : Bool) :
    (skipIf (advance s) (!c)).pc = if c = true then s.pc + 2 else s.pc + 4 := by
  cases c <;> simp [skipIf_advance]

theorem lowNibble_toNat (b : Byte) : (b &&& 0x0F).toNat = b.toNat % 16 := by
  rw [BitVec.toNat_and]
  exact Nat.and_two_pow_sub_one_eq_mod b.toNat 4

theorem stdGlyphAddr_toNat (b : Byte) : (stdGlyphAddr b).toNat = 0x050 + 5 * (b.toNat % 16) := by
  rw [stdGlyphAddr, lowNibble_toNat, BitVec.toNat_ofNat]
  exact Nat.mod_eq_of_lt (show 0x050 + 5 * (b.toNat % 16) < 65536 by omega)

theorem extGlyphAddr_toNat (b : Byte) : (extGlyphAddr b).toNat = 0x0A0 + 10 * (b.toNat % 16) := by
  rw [extGlyphAddr, lowNibble_toNat, BitVec.toNat_ofNat]
  exact Nat.mod_eq_of_lt (show 0x0A0 + 10 * (b.toNat % 16) < 65536 by omega)

end Sys2Proof.Machine

namespace Sys2Proof
open Machine

/-- Settles O50: both are skips on the same key, on opposite conditions. -/
theorem keySkipsTestTheNamedKey : Obligations.KeySkipsTestTheNamedKey := by
  intro x s k mode named
  rw [exec_skp, exec_sknp]
  exact ⟨⟨_, keySkip_of_key mode _ _ named, skipIf_onlyChanges s _, skipIf_advance_pc s (getKey s k)⟩,
    ⟨_, keySkip_of_key mode _ _ named, skipIf_onlyChanges s _, skipIf_not_advance_pc s (getKey s k)⟩⟩

/-- Settles O51: no key is named, and the Step takes that fault from the state it began in. -/
theorem keySkipsFaultAboveFifteen : Obligations.KeySkipsFaultAboveFifteen := by
  intro x s mode above
  rw [exec_skp, exec_sknp]
  exact ⟨keySkip_above_fifteen mode _ _ above, keySkip_above_fifteen mode _ _ above⟩

/-- Settles O52: one write after the advance, of V[x] or of I; a glyph address fits in 16 bits. -/
theorem timerReadAndGlyphPointers : Obligations.TimerReadAndGlyphPointers := fun x s mode =>
  ⟨⟨_, exec_ldFromDt_of_standard mode x, rfl, getV_setV_same _ x s.dt, setV_advance_regFrame s x s.dt⟩,
    ⟨_, exec_ldFont_of_standard mode x, rfl, stdGlyphAddr_toNat (getV s x), ldI_onlyChanges s _⟩,
    ⟨_, exec_ldHiFont_of_standard mode x, rfl, extGlyphAddr_toNat (getV s x), ldI_onlyChanges s _⟩⟩

end Sys2Proof
end

section
/-! Storing and loading V0..Vx under standard: the registers as a rising list, the two ends of each Step, and what each
leaves alone (45_undescribed_and_unmapped.md R178, R179). -/

namespace Sys2Proof.Machine

/-! ## V0..Vx as a list -/

theorem regsUpTo_eq_take (x : Reg) : regsUpTo x = (List.finRange 16).take (x.val + 1) := by
  revert x
  decide

theorem regBytes_length (s : State) (x : Reg) : (regBytes s x).length = x.val + 1 := by
  rw [regBytes, List.length_map, regsUpTo_eq_take, List.length_take, List.length_finRange]
  omega

theorem regBytes_getElem (s : State) {x r : Reg} (h : r.val < (regBytes s x).length) :
    (regBytes s x)[r.val] = getV s r := by
  simp [regBytes, regsUpTo_eq_take]

/-- The registers before Vq in V0..Vx are those with a smaller number. -/
theorem regsUpTo_split {q x : Reg} (h : q.val ≤ x.val) :
    ∃ before after, regsUpTo x = before ++ q :: after ∧ ∀ r ∈ before, r.val < q.val := by
  have rising : (regsUpTo x).Pairwise (· < ·) := List.Pairwise.filter _ (by decide)
  obtain ⟨before, after, split_at_q⟩ := List.append_of_mem ((mem_regsUpTo x q).2 h)
  rw [split_at_q] at rising
  exact ⟨before, after, split_at_q, fun r hr => (List.pairwise_append.1 rising).2.2 r hr q List.mem_cons_self⟩

/-! ## What the store and the load leave alone -/

theorem store_onlyChanges (s : State) (m : List Host.Cell) : OnlyChanges [.mem, .pc] s (setMem (advance s) m) :=
  onlyChanges_trans (setMem_onlyChanges s m) (setPc_onlyChanges _ (s.pc + 2))

theorem v_onlyChanges (s : State) (v : Vector Byte 16) : OnlyChanges [.v] s { s with v := v } := by
  intro p hp
  have kept := keeps_refl p s
  cases p with
  | v => simp at hp
  | _ => exact kept

theorem load_onlyChanges (s : State) (v : Vector Byte 16) : OnlyChanges [.v, .pc] s { advance s with v := v } :=
  onlyChanges_trans (v_onlyChanges s v) (setPc_onlyChanges _ (s.pc + 2))

/-! ## The two ends of each Step -/

section
variable {s : State} (mode : s.undescribedOps = .standard) (x : Reg)
include mode

theorem exec_storeRegs_of_standard :
    exec (.storeRegs x) s = endStep (.storeRegs x) s (writeBytes (advance s) s.index.toNat (regBytes s x)) :=
  undescribedStep_of_standard (.storeRegs x) _ mode

theorem exec_loadRegs_of_standard :
    exec (.loadRegs x) s = endStep (.loadRegs x) s (loadEach (advance s) (regsUpTo x)) :=
  undescribedStep_of_standard (.loadRegs x) _ mode

theorem exec_storeRegs_of_fits (h : s.index.toNat + x.val ≤ 0x0FFF) : exec (.storeRegs x) s =
    .next (setMem (advance s) (memSetAll s.mem s.index.toNat (regBytes s x))) := by
  have fits : s.index.toNat + (regBytes s x).length ≤ 0x1000 := by
    rw [regBytes_length]
    exact Nat.succ_le_succ h
  rw [exec_storeRegs_of_standard mode x, writeBytes_ok _ _ _ (.inr fits), endStep_ok, advance_mem]

theorem exec_storeRegs_past_end (h : 0x0FFF < s.index.toNat + x.val) : exec (.storeRegs x) s =
    .next (faulted s (.storeRegs x) (.memoryOutOfRange (max s.index.toNat 0x1000))) := by
  have nonempty : regBytes s x ≠ [] := List.ne_nil_of_length_eq_add_one (regBytes_length s x)
  have past : 0x1000 < s.index.toNat + (regBytes s x).length := by
    rw [regBytes_length]
    exact Nat.succ_lt_succ h
  rw [exec_storeRegs_of_standard mode x, writeBytes_error _ (advance s) _ nonempty past]
  rfl

theorem exec_loadRegs_of_readable (h : s.index.toNat + x.val + 1 ≤ 0x0FFF) :
    ∃ v : Vector Byte 16, exec (.loadRegs x) s = .next { advance s with v := v } ∧
      ∀ r : Reg, v[r.val] = if r.val ≤ x.val then memGet s.mem (s.index.toNat + r.val) else getV s r := by
  have readable : ∀ r ∈ regsUpTo x, (advance s).index.toNat + r.val + 1 ≤ 0x0FFF := fun r hr => by
    have := (mem_regsUpTo x r).1 hr
    rw [advance_index]
    omega
  obtain ⟨v, loaded, reads⟩ := loadEach_ok (regsUpTo x) (advance s) readable
  refine ⟨v, ?_, fun r => ?_⟩
  · rw [exec_loadRegs_of_standard mode x, loaded, endStep_ok]
  · rw [reads r, advance_mem, advance_index, getV_advance]
    simp only [mem_regsUpTo]

/-- Vq is the first register whose window passes 0x0FFF. -/
theorem exec_loadRegs_unreadable {q : Reg} (hq : q.val ≤ x.val)
    (earlier : ∀ r : Reg, r.val < q.val → s.index.toNat + r.val + 1 ≤ 0x0FFF)
    (past : 0x0FFF < s.index.toNat + q.val + 1) :
    exec (.loadRegs x) s = .next (faulted s (.loadRegs x) (.memoryOutOfRange (s.index.toNat + q.val))) := by
  obtain ⟨before, after, split_at_q, smaller⟩ := regsUpTo_split hq
  have readable : ∀ r ∈ before, (advance s).index.toNat + r.val + 1 ≤ 0x0FFF := fun r hr => earlier r (smaller r hr)
  rw [exec_loadRegs_of_standard mode x, split_at_q, loadEach_error before after q (advance s) readable past]
  rfl

end

end Sys2Proof.Machine

namespace Sys2Proof
open Machine

/-- Settles O53: the store is of the x + 1 register bytes in a row from I, and it fits or faults as a whole. -/
theorem registerStoreWritesFromIndex : Obligations.RegisterStoreWritesFromIndex := by
  refine fun x s mode => ⟨fun fits => ?_, exec_storeRegs_past_end mode x⟩
  have length := regBytes_length s x
  refine ⟨_, exec_storeRegs_of_fits mode x fits, rfl, fun r hr => ?_, fun a outside => ?_, store_onlyChanges s _⟩
  · have inside : r.val < (regBytes s x).length := by omega
    exact (memGet_memSetAll_inside _ s.mem s.index.toNat r.val inside).trans (regBytes_getElem s inside)
  · exact memGet_memSetAll_outside _ s.mem s.index.toNat a (by omega)

/-- Settles O54: the first register that cannot be read is number 0x0FFF - I, and V0 when I is already past 0x0FFF. -/
theorem registerLoadReadsFromIndex : Obligations.RegisterLoadReadsFromIndex := by
  refine fun x s mode => ⟨fun readable => ?_, fun high => ?_⟩
  · obtain ⟨v, loaded, reads⟩ := exec_loadRegs_of_readable mode x readable
    exact ⟨_, loaded, rfl, reads, load_onlyChanges s v⟩
  · have below_x : 0x0FFF - s.index.toNat ≤ x.val := by omega
    have first : s.index.toNat + (0x0FFF - s.index.toNat) = max s.index.toNat 0x0FFF := by omega
    rw [← first]
    exact exec_loadRegs_unreadable mode x (q := ⟨0x0FFF - s.index.toNat, by omega⟩) below_x
      (fun r (hr : r.val < 0x0FFF - s.index.toNat) => by omega)
      (show 0x0FFF < s.index.toNat + (0x0FFF - s.index.toNat) + 1 by omega)

end Sys2Proof
end

section
/-! A fault and a refusal each change one record and nothing else, and only the undescribed and the SCHIP-only forms are
refused (60_exceptions.md R201, R203; 45_undescribed_and_unmapped.md R180). -/

namespace Sys2Proof.Machine

/-- Of the shapes of a Step only the fault writes FAULT. -/
theorem StepEnd.eq_faulted {s t : State} {i : Instr} (h : StepEnd s i t) (changed : t.fault ≠ s.fault) :
    ∃ f, t = faulted s i f := by
  cases h with
  | fault f => exact ⟨f, rfl⟩
  | _ => exact absurd rfl changed

/-- Of the shapes of a Step only the refusal writes REFUSED. -/
theorem StepEnd.eq_refusedAt {s t : State} {i : Instr} (h : StepEnd s i t) (changed : t.refused ≠ s.refused) :
    t = refusedAt s i := by
  cases h with
  | refusal => rfl
  | _ => exact absurd rfl changed

/-- A handler that keeps REFUSED where it completes ends its Step with REFUSED kept, for a fault keeps it too. -/
theorem endStep_map_refused {α : Type} {i : Instr} {s t : State} {r : Except Fault α} {f : α → State}
    (h : endStep i s (r.map f) = .next t) (kept : ∀ a, r = .ok a → (f a).refused = s.refused) :
    t.refused = s.refused := by
  cases r with
  | error => cases h; rfl
  | ok a => cases h; exact kept a rfl

theorem push_refused {s t : State} {a : Word} (h : push s a = .ok t) : t.refused = s.refused := by
  obtain ⟨_, e⟩ | ⟨-, e⟩ := push_cases s a <;> cases e.symm.trans h
  rfl

theorem pop_refused {s : State} {p : Word × State} (h : pop s = .ok p) : p.2.refused = s.refused := by
  obtain ⟨_, -, e⟩ | ⟨-, e⟩ := pop_cases s <;> cases e.symm.trans h
  rfl

theorem exec_ldBcd_refused {x : Reg} {s t : State} (h : exec (.ldBcd x) s = .next t) : t.refused = s.refused := by
  by_cases fits : s.index.toNat + 2 ≤ 0x0FFF
  · cases (exec_ldBcd_of_fits x fits).symm.trans h
    rfl
  · cases (exec_ldBcd_past_end x (Nat.lt_of_not_le fits)).symm.trans h
    rfl

theorem exec_ldKey_refused {x : Reg} {s t : State} (h : exec (.ldKey x) s = .next t) : t.refused = s.refused := by
  cases selected : selectKey s with
  | some k => cases (exec_ldKey_of_some selected).symm.trans h; rfl
  | none => cases (exec_ldKey_of_none selected).symm.trans h; rfl

/-- No described instruction is ever refused. -/
theorem exec_refused_of_described {i : Instr} {s t : State} (described : i.kind = .described) (h : exec i s = .next t) :
    t.refused = s.refused := by
  cases i with
  | call => exact endStep_map_refused h fun _ pushed => by simpa using push_refused pushed
  | ret => exact endStep_map_refused h fun _ popped => by simpa using pop_refused popped
  | drw => exact endStep_map_refused h fun _ _ => rfl
  | ldBcd => exact exec_ldBcd_refused h
  | ldKey => exact exec_ldKey_refused h
  | seImm | sneImm | seReg | sneReg =>
    cases h
    exact skipIf_onlyChanges s _ .refused (by decide)
  | cls | jp | jpV0 | ldImm | addImm | ldReg | orReg | andReg | xorReg | addReg | sub | subn | shr | shl
  | ldI | addI | rnd | ldDt | ldSt =>
    cases h
    rfl
  | _ => cases described

theorem refusable_of_refused_changed {i : Instr} {s t : State} (h : exec i s = .next t)
    (changed : t.refused ≠ s.refused) : i.kind = .undescribed ∨ i.kind = .schip := by
  cases class_of_i : i.kind with
  | undescribed => exact .inl rfl
  | schip => exact .inr rfl
  | described => exact absurd (exec_refused_of_described class_of_i h) changed
  | unmapped =>
    cases (exec_of_unmapped class_of_i s).symm.trans h
    exact absurd rfl changed

end Sys2Proof.Machine

namespace Sys2Proof
open Machine

/-- Settles O9, by the one shape of a Step that writes FAULT. -/
theorem faultsArePrecise : Obligations.FaultsArePrecise := fun _ _ _ h changed =>
  (stepEnd_of_exec h).eq_faulted changed

/-- Settles O57, by the one shape of a Step that writes REFUSED and the classes that have it. -/
theorem refusalsArePrecise : Obligations.RefusalsArePrecise := fun _ _ _ h changed =>
  ⟨(stepEnd_of_exec h).eq_refusedAt changed, refusable_of_refused_changed h changed⟩

end Sys2Proof
end

section
/-! The latched core does nothing, and the running one counts its timers down (60_exceptions.md R201, R203, R210 to
R212). -/

namespace Sys2Proof.Machine

theorem running_false_of_not_good {s : State} (latched : ¬ Good s) : running s = false :=
  Bool.eq_false_iff.2 fun h => latched ((running_iff s).1 h)

theorem cycle_of_latched {s : State} (h : running s = false) : cycle s = .next s := by
  simp [cycle, h]

theorem timerTick_of_latched {s : State} (h : running s = false) : timerTick s = s := by
  simp [timerTick, h]

/-- A timer after one TimerTick: one less, and 0 at 0 (R211). -/
def countDown (b : Byte) : Byte := if b = 0 then 0 else b - 1

theorem timerTick_of_good {s : State} (good : Good s) :
    timerTick s = { s with dt := countDown s.dt, st := countDown s.st } :=
  if_pos ((running_iff s).2 good)

theorem timers_onlyChanges (s : State) (d e : Byte) : OnlyChanges [.dt, .st] s { s with dt := d, st := e } :=
  onlyChanges_trans (setDt_onlyChanges s d) (setSt_onlyChanges _ e)

theorem queue_onlyChanges (s : State) (q : List HostMove) : OnlyChanges [.queue] s { s with hostQueue := q } := by
  intro p hp
  have kept := keeps_refl p s
  cases p with
  | queue => simp at hp
  | _ => exact kept

end Sys2Proof.Machine

namespace Sys2Proof
open Machine

/-- Settles O10: a Step and a TimerTick both do nothing in a latched state, and taking a move off unlatches none. -/
theorem latchedCoreIsFrozen : Obligations.LatchedCoreIsFrozen := by
  intro s latched
  have stopped := running_false_of_not_good latched
  refine ⟨fun idle => ?_, fun rest pending => ?_, fun rest pending => ?_⟩
  · rw [step_idle idle]
    exact cycle_of_latched stopped
  · rw [step_pending pending]
    exact cycle_of_latched (s := { s with hostQueue := rest }) stopped
  · rw [step_pending pending]
    exact congrArg Host.Outcome.next (timerTick_of_latched (s := { s with hostQueue := rest }) stopped)

/-- Settles O24: the tick writes the two timers, each counted down, and taking the move off writes the queue. -/
theorem timerTickCountsDownToZero : Obligations.TimerTickCountsDownToZero := by
  intro s good
  have frame := timers_onlyChanges s (countDown s.dt) (countDown s.st)
  refine ⟨?_, ?_, ?_, fun rest pending => ?_⟩
  · rw [timerTick_of_good good]
    exact countDown_toNat s.dt
  · rw [timerTick_of_good good]
    exact countDown_toNat s.st
  · rw [timerTick_of_good good]
    exact frame
  · have ticked := timerTick_of_good (s := { s with hostQueue := rest }) good
    exact ⟨_, (step_pending pending).trans (congrArg Host.Outcome.next ticked), countDown_toNat s.dt,
      countDown_toNat s.st, rfl, onlyChanges_trans frame (queue_onlyChanges _ rest)⟩

/-- Settles O25: SOUND_ACTIVE reads ST, which Fx18 loads with V[x] and a TimerTick takes from 1 to 0. -/
theorem soundActiveFollowsTheSoundTimer : Obligations.SoundActiveFollowsTheSoundTimer := by
  refine ⟨soundActive_iff, fun x s => ⟨_, exec_ldSt x s, soundActive_iff _⟩, fun s good one => ⟨?_, ?_⟩⟩
  · rw [soundActive_iff, one]
    decide
  · rw [timerTick_of_good good, one]
    rfl

end Sys2Proof
end

section
/-! RESET and the parameter of the run: RESET gives the state after reset in every part of the chip, and no move writes
UNDESCRIBED_OPS (70_reset_and_hazards.md R220, R233). -/

namespace Sys2Proof.Machine

theorem hostReset_onlyChanges (s : State) : OnlyChanges [.params, .queue, .rand] State.reset (hostReset s) := by
  intro p hp
  have kept := keeps_refl p State.reset
  cases p with
  | params | queue | rand => simp at hp
  | _ => exact kept

theorem CycleEnd.params_kept {s t : State} (h : CycleEnd s t) : t.undescribedOps = s.undescribedOps := by
  cases h with
  | latched | fetchFault => rfl
  | exec _ _ he =>
    obtain ⟨-, params, -⟩ := he.host_parts_kept
    exact params

theorem hostMove_params_kept {m : HostMove} {s t : State} (h : hostMove m s = .next t) :
    t.undescribedOps = s.undescribedOps := by
  cases m with
  | step => exact (cycleEnd_of_cycle h).params_kept
  | loadRom rom =>
    cases h
    obtain ⟨bytes, -, ht⟩ := loadRom_eq rom s
    rw [ht]
    rfl
  | timerTick =>
    cases h
    obtain ⟨d, e, ht⟩ := timerTick_eq s
    rw [ht]
  | reset | keyWrite | fbSet | randPort =>
    cases h
    rfl

end Sys2Proof.Machine

namespace Sys2Proof
open Machine

/-- Settles O20: no end of a Step and no move of the host, RESET included, writes the parameter. -/
theorem parametersAreFixedForTheRun : Obligations.ParametersAreFixedForTheRun := by
  intro s t h
  rw [step_eq_hostMove] at h
  exact hostMove_params_kept (s := { s with hostQueue := s.hostQueue.tail }) h

/-- Settles O22: the move answers `hostReset` of the state with the move taken off. -/
theorem resetRecreatesTheWholeState : Obligations.ResetRecreatesTheWholeState := fun _ _ pending =>
  ⟨_, step_pending pending, hostReset_onlyChanges _, rfl, rfl, rfl, rfl⟩

end Sys2Proof
end

section
/-! LOAD_ROM and the launch state: where the bytes of a ROM lie, and what the load leaves alone (70_reset_and_hazards.md
R222, R223, R233). -/

namespace Sys2Proof.Machine

/-- The state after LOAD_ROM of a ROM that fits (R222). -/
def withRom (bytes : List Byte) (s : State) : State := setMem s (memSetAll s.mem 0x200 bytes)

theorem loadRom_of_fits {bytes : List Byte} (s : State) (h : bytes.length ≤ 0x1000 - 0x200) :
    loadRom bytes s = (.loaded, withRom bytes s) :=
  if_pos h

theorem loadRom_of_oversize {bytes : List Byte} (s : State) (h : 0x1000 - 0x200 < bytes.length) :
    loadRom bytes s = (.oversize, s) :=
  if_neg (Nat.not_le.2 h)

/-- Taking the move off first or last is the same: LOAD_ROM neither reads nor writes the pending moves. -/
theorem loadRom_hostQueue (bytes : List Byte) (s : State) (q : List HostMove) :
    (loadRom bytes { s with hostQueue := q }).2 = { (loadRom bytes s).2 with hostQueue := q } := by
  obtain ⟨fits, h⟩ | ⟨oversize, h⟩ := loadRom_cases bytes s <;> rw [h]
  · rw [loadRom_of_fits _ fits]
    rfl
  · rw [loadRom_of_oversize _ oversize]

theorem withRom_onlyChanges (bytes : List Byte) (s : State) : OnlyChanges [.mem] s (withRom bytes s) :=
  setMem_onlyChanges s _

theorem memGet_withRom_inside {bytes : List Byte} (s : State) {j : Nat} (h : j < bytes.length) :
    memGet (withRom bytes s).mem (0x200 + j) = bytes[j] :=
  memGet_memSetAll_inside bytes s.mem 0x200 j h

theorem memGet_withRom_outside {bytes : List Byte} (s : State) {a : Nat}
    (h : a < 0x200 ∨ 0x200 + bytes.length ≤ a) :
    memGet (withRom bytes s).mem a = memGet s.mem a :=
  memGet_memSetAll_outside bytes s.mem 0x200 a h

theorem launch_eq_withRom (u : UndescribedOps) {rom : List Byte} (h : rom.length ≤ 0x1000 - 0x200) :
    launch u rom = withRom rom (resetUnder u) :=
  congrArg Prod.snd (loadRom_of_fits (resetUnder u) h)

theorem withRom_resetUnder_mem_wf (u : UndescribedOps) {rom : List Byte} (h : rom.length ≤ 0x1000 - 0x200) :
    Memory.wf (withRom rom (resetUnder u)).mem :=
  memSetAll_wf rom reset_mem_wf (show 0x200 + rom.length ≤ 0x1000 by omega)

end Sys2Proof.Machine

namespace Sys2Proof
open Machine

/-- Settles O23: the run of writes from 0x200 if the ROM fits, nothing if it does not, and either with the move taken
off. -/
theorem loadRomCopiesTheBytes : Obligations.LoadRomCopiesTheBytes := by
  intro bytes s
  refine ⟨fun fits => ⟨withRom bytes s, loadRom_of_fits s fits, withRom_onlyChanges bytes s, fun j hj => ?_,
    fun a ha => ?_⟩, loadRom_of_oversize s, fun rest pending => ?_⟩
  · exact memGet_withRom_inside s hj
  · exact memGet_withRom_outside s ha
  · rw [step_pending pending]
    exact congrArg Host.Outcome.next (loadRom_hostQueue bytes s rest)

/-- Settles O60: the launch state is the state after reset with the ROM written from 0x200. -/
theorem launchStateMeetsItsPremises : Obligations.LaunchStateMeetsItsPremises := by
  intro u rom fits
  rw [launch_eq_withRom u fits]
  exact ⟨⟨rfl, rfl⟩, rfl, fbGet_reset, getKey_reset, rfl, rfl, rfl,
    fun _ hj => memGet_withRom_inside _ hj, withRom_resetUnder_mem_wf u fits, rfl⟩

end Sys2Proof
end

section
/-! A run that has ended in a jump to itself: the Step from there leads back there (70_reset_and_hazards.md R225). -/

namespace Sys2Proof.Machine

theorem runEnd_eq_selfJump {s : State} (h : runEnd s = some .selfJump) : Good s ∧ atSelfJump s = true := by
  unfold runEnd at h
  split_ifs at h with faulted refused jump
  · cases h
  · cases h
  · exact ⟨⟨by simpa using faulted, by simpa using refused⟩, jump⟩

theorem atSelfJump_fetch {s : State} (h : atSelfJump s = true) :
    ∃ w, fetch s = .ok w ∧ (fieldClass w).toNat = 0x1 ∧ (fieldNnn w).toNat = s.pc.toNat := by
  unfold atSelfJump at h
  cases hf : fetch s with
  | error f => simp [hf] at h
  | ok w => exact ⟨w, rfl, by simpa [hf] using h⟩

theorem decodeWord_of_class1 {w : Word} (h : (fieldClass w).toNat = 0x1) : decodeWord w = .jp (fieldNnn w) := by
  simp [decodeWord, h]

theorem exec_jp (nnn : Addr) (s : State) : exec (.jp nnn) s = .next (setPc s (jumpTarget nnn 0)) := rfl

/-- A jump to the address it stands at changes nothing (40_screen_and_control.md R102, R103). -/
theorem exec_jp_self {nnn : Addr} {s : State} (h : nnn.toNat = s.pc.toNat) : exec (.jp nnn) s = .next s := by
  have target : jumpTarget nnn 0 = s.pc := BitVec.eq_of_toNat_eq ((jumpTarget_toNat nnn 0).trans h)
  rw [exec_jp, target]
  rfl

end Sys2Proof.Machine

namespace Sys2Proof
open Machine

/-- Settles O13: the fetched word is a jump to PC, and the Step runs it. -/
theorem selfJumpStateIsAFixedPoint : Obligations.SelfJumpStateIsAFixedPoint := by
  intro s ended idle
  obtain ⟨good, selfJump⟩ := runEnd_eq_selfJump ended
  obtain ⟨w, fetched, jp, target⟩ := atSelfJump_fetch selfJump
  calc step s = exec (decodeWord w) s := by
        rw [step_idle idle, cycle_of_fetch_ok ((running_iff s).2 good) fetched]
    _ = .next s := by rw [decodeWord_of_class1 jp, exec_jp_self target]

end Sys2Proof
end
